-- ==== Sys2Proof/Word.lean ====
section
/-! DEFINITION. The word types of the CDG decoder: a byte of the input or of a frame (R60, R62) and a
4-bit canvas cell (R34). Nothing else of this block is a machine word: cursors, counts and
milliseconds are unbounded naturals (R14). -/

namespace Sys2Proof

/-- One byte of the input buffer or of a frame; bit 0 is the least significant (R15). -/
abbrev Byte := BitVec 8

/-- One canvas cell, a palette index in 0..15 (R34, R35: `UInt4`). -/
abbrev Cell := BitVec 4

end Sys2Proof
end

