-- ==== Sys2Proof/Config.lean ====
section
/-! DEFINITION. What is fixed for the block: the constants of 00_scope.md (R7 to R11) and the four OPEN
parameters of 92_eei_decisions.md (D4, D9, D11 and 90_conflicts.md C3), which the spec says a model
takes as an argument. The constants are `@[simp]` abbreviations, so that `simp` shows the numerals.
The sizes 300, 216, 16, 24, 288 and 192 also stand as numerals in types (`Vector`, `Fin`); the tests
check that they are these constants. No free value (`opaque`) is needed: the spec settles every value
that its source leaves open (92_eei_decisions.md), and the choices are logged in notes/assumptions. -/

namespace Sys2Proof
namespace Config

/-! ## Geometry (R7, R8) -/

/-- R7: canvas width in cells (columns 0..299). -/
@[simp] abbrev canvasW : Nat := 300
/-- R7: canvas height in cells (rows 0..215). -/
@[simp] abbrev canvasH : Nat := 216
/-- R7: visible window width. -/
@[simp] abbrev visW : Nat := 288
/-- R7: visible window height. -/
@[simp] abbrev visH : Nat := 192
/-- R7: first visible canvas column at zero offset. -/
@[simp] abbrev visCol0 : Nat := 6
/-- R7: first visible canvas row at zero offset. -/
@[simp] abbrev visRow0 : Nat := 12
/-- R7: tile height in rows. -/
@[simp] abbrev tileH : Nat := 12
/-- R7: tile width in columns. -/
@[simp] abbrev tileW : Nat := 6
/-- R7: tile rows on the canvas, `CANVAS_H / TILE_H`. -/
@[simp] abbrev tileRows : Nat := 18
/-- R7: tile columns on the canvas, `CANVAS_W / TILE_W`. -/
@[simp] abbrev tileCols : Nat := 50
/-- R8: rows of BorderPreset's top band. -/
@[simp] abbrev borderTopRows : Nat := 12
/-- R8: columns of each of BorderPreset's side bands. -/
@[simp] abbrev borderSideCols : Nat := 6

/-! ## Colours, stream, offsets (R9 to R11) -/

/-- R9: palette entries. -/
@[simp] abbrev palN : Nat := 16
/-- R9: scale factor from a 4-bit channel to 0..255. -/
@[simp] abbrev chScale : Byte := 17#8
/-- R10: bytes of a packet record. -/
@[simp] abbrev pktBytes : Nat := 24
/-- R10: data bytes of a packet record. -/
@[simp] abbrev dataBytes : Nat := 16
/-- R10: the command field that selects CDG graphics. -/
@[simp] abbrev cdgCommand : BitVec 6 := 0x09#6
/-- R10: packets per second of playback time. -/
@[simp] abbrev packetsPerSecond : Nat := 300
/-- R10: frame-rate cap, frames per second. -/
@[simp] abbrev maxFps : Nat := 60
/-- R10: `MIN_PACKETS = CDG_PACKETS_PER_SECOND / MAX_FPS`. -/
@[simp] abbrev minPackets : Nat := 5
/-- R11: largest horizontal scroll offset. -/
@[simp] abbrev hOffMax : Nat := 5
/-- R11: largest vertical scroll offset. -/
@[simp] abbrev vOffMax : Nat := 11
/-- R12: bytes of the bitmap part of a frame, `VIS_W * VIS_H`. -/
@[simp] abbrev bitmapBytes : Nat := 55296

end Config

/-! ## The four OPEN parameters (R8, R12, R13) -/

/-- R8, C3: the height of BorderPreset's bottom band; 14 is the default and 12 the only alternative. -/
inductive BorderBottom where
  | rows14
  | rows12
  deriving DecidableEq, Repr

/-- R8: `BORDER_BOTTOM_ROWS` as a number. -/
def BorderBottom.rows : BorderBottom → Nat
  | .rows14 => 14
  | .rows12 => 12

/-- R13, D9: `TILE_OOB_POLICY`, what a tile command at a position outside the canvas does. -/
inductive TileOobPolicy where
  /-- The default: no cell is written and the change bit is false. -/
  | skip
  /-- The run ends with a named refusal (R282). -/
  | refuse
  deriving DecidableEq, Repr

/-- R13, D11: `SCROLL_OFF_OOB_POLICY`, what a scroll offset above its maximum does.
DESIGN CHOICE (notes/assumptions/9.md): `clamp` is the one alternative offered, since D11 names "clamps". -/
inductive ScrollOobPolicy where
  /-- The default: that offset keeps its old value. -/
  | keep
  /-- That offset takes its maximum. -/
  | clamp
  deriving DecidableEq, Repr

/-- A channel of a 24-bit palette entry (R36). -/
inductive Channel where
  | red
  | green
  | blue
  deriving DecidableEq, Repr

/-- What one byte of the serialized palette holds (R213): a channel of an entry, or a fixed byte
(padding or alpha of a consumer's layout). -/
inductive PaletteByte where
  | channel (entry : Fin 16) (ch : Channel)
  | fixed (value : Byte)
  deriving DecidableEq, Repr

/-- R13, R213: `PALETTE_LAYOUT`, the bytes of the serialized palette in order. `PALETTE_BYTES` is its
length, so `CDG_IMAGE_SIZE` follows from it (R12). -/
abbrev PaletteLayout := List PaletteByte

/-- R213, D4: the default layout `RGB888x16`: entries 0 to 15 in order, each red, green, blue. -/
def PaletteLayout.rgb888x16 : PaletteLayout :=
  (List.finRange 16).flatMap fun i => [.channel i .red, .channel i .green, .channel i .blue]

/-- The four OPEN parameters a model takes as arguments (92_eei_decisions.md, last list). -/
structure Params where
  borderBottom : BorderBottom
  tileOob : TileOobPolicy
  scrollOob : ScrollOobPolicy
  paletteLayout : PaletteLayout
  deriving DecidableEq, Repr

/-- Every parameter at the spec's default. -/
def Params.default : Params where
  borderBottom := .rows14
  tileOob := .skip
  scrollOob := .keep
  paletteLayout := PaletteLayout.rgb888x16

/-- R12: `CDG_IMAGE_SIZE = VIS_W * VIS_H + PALETTE_BYTES`. -/
def Params.imageSize (p : Params) : Nat := Config.bitmapBytes + p.paletteLayout.length

end Sys2Proof
end

