-- ==== Sys2Proof/Syntax.lean ====
section
/-! DEFINITION. The instructions: one constructor per row of spec/opcode_table.json (R95), its operands at
the widths of their fields (R86 to R93), and the source lines of the spec's assembler (R100), whose
operands are plain numbers that may be too wide. -/

namespace Sys2Proof

/-- One colour operand of a colour packet: three 4-bit channels (R9, R92). -/
structure Rgb12 where
  r : BitVec 4
  g : BitVec 4
  b : BitVec 4
  deriving DecidableEq, Repr

/-- The nine instructions of R95. Every operand has the type of its field, so that no operand can be out
of its field's range (R86, R94). -/
inductive Instr where
  /-- R130 (code 1): `MEMPRESET color, repeat`. -/
  | memPreset (color rep : BitVec 4)
  /-- R131 (code 2): `BORDERPRESET color`. -/
  | borderPreset (color : BitVec 4)
  /-- R150 (code 6): `TILE c0, c1, row, col, b0, ..., b11`. -/
  | tile (color0 color1 : BitVec 4) (row : BitVec 5) (col : BitVec 6) (bits : Vector (BitVec 6) 12)
  /-- R173 (code 20): `SCROLLPRESET color, hcmd, hoff, vcmd, voff`. -/
  | scrollPreset (color : BitVec 4) (hCmd : BitVec 2) (hOffNew : BitVec 3) (vCmd : BitVec 2) (vOffNew : BitVec 4)
  /-- R174 (code 24): `SCROLLCOPY hcmd, hoff, vcmd, voff`. -/
  | scrollCopy (hCmd : BitVec 2) (hOffNew : BitVec 3) (vCmd : BitVec 2) (vOffNew : BitVec 4)
  /-- R193 (code 28): `DEFTRANSP`. -/
  | defTransp
  /-- R191 (code 30): `COLORSLOW rgb0, ..., rgb7`. -/
  | colorsLow (rgb : Vector Rgb12 8)
  /-- R192 (code 31): `COLORSHIGH rgb8, ..., rgb15`. -/
  | colorsHigh (rgb : Vector Rgb12 8)
  /-- R151 (code 38): `TILEXOR c0, c1, row, col, b0, ..., b11`. -/
  | tileXor (color0 color1 : BitVec 4) (row : BitVec 5) (col : BitVec 6) (bits : Vector (BitVec 6) 12)
  deriving DecidableEq, Repr

/-- R100: the lines of the spec's assembler syntax, operands as the numbers that were written. -/
inductive SrcLine where
  | nop
  | memPreset (color rep : Nat)
  | borderPreset (color : Nat)
  | tile (c0 c1 row col : Nat) (rows : List Nat)
  | tileXor (c0 c1 row col : Nat) (rows : List Nat)
  | scrollPreset (color hcmd hoff vcmd voff : Nat)
  | scrollCopy (hcmd hoff vcmd voff : Nat)
  | defTransp
  | colorsLow (rgb : List Nat)
  | colorsHigh (rgb : List Nat)
  | raw (bytes : List Nat)
  | pad (n : Nat)
  | tile1 (c0 c1 row col b : Nat)
  | tileXor1 (c0 c1 row col b : Nat)
  deriving DecidableEq, Repr

end Sys2Proof
end

