-- ==== Sys2Proof/WellFormed.lean ====
section
/-! DEFINITION. Well-formedness. An `Instr` is well-formed by its type: each operand has its field's width
and the repeated operands are vectors of 12 and 8, so there is no check left to make. What is plain data
is an assembler line (R100), whose operands may be "too wide for [their] field" or too few: `SrcLine.wf`
is the check. DEDUCED (notes/assumptions/13.md): a row operand `b` is a whole byte (the spec's own lines
write `0xFF` and encode it as `FF`). -/

namespace Sys2Proof

/-- The operands of `TILE` and `TILEXOR` but for the row bytes fit their fields (R89). -/
def SrcLine.tileHeadFits (c0 c1 row col : Nat) : Bool :=
  c0 < 16 && c1 < 16 && row < 32 && col < 64

/-- The scroll operands fit their fields (R90). -/
def SrcLine.scrollFits (hcmd hoff vcmd voff : Nat) : Bool :=
  hcmd < 4 && hoff < 8 && vcmd < 4 && voff < 16

/-- R100: "An operand too wide for its field is an assembler error", and each line has the operands its
syntax lists. -/
def SrcLine.wf : SrcLine → Bool
  | .nop => true
  | .memPreset color rep => color < 16 && rep < 16
  | .borderPreset color => color < 16
  | .tile c0 c1 row col rows => tileHeadFits c0 c1 row col && rows.length == 12 && rows.all (· < 256)
  | .tileXor c0 c1 row col rows => tileHeadFits c0 c1 row col && rows.length == 12 && rows.all (· < 256)
  | .scrollPreset color hcmd hoff vcmd voff => color < 16 && scrollFits hcmd hoff vcmd voff
  | .scrollCopy hcmd hoff vcmd voff => scrollFits hcmd hoff vcmd voff
  | .defTransp => true
  | .colorsLow rgb => rgb.length == 8 && rgb.all (· < 4096)
  | .colorsHigh rgb => rgb.length == 8 && rgb.all (· < 4096)
  | .raw bytes => bytes.length == 24 && bytes.all (· < 256)
  | .pad _ => true
  | .tile1 c0 c1 row col b => tileHeadFits c0 c1 row col && b < 256
  | .tileXor1 c0 c1 row col b => tileHeadFits c0 c1 row col && b < 256

end Sys2Proof
end

