-- ==== Sys2Proof/Decode.lean ====
section
/-! DEFINITION. The decoder (30_encoding.md R80 to R99), total on any bytes and rejecting by name, then the
encoder, then the assembler of R100. A record that is no instruction of R95 is not an error of the block:
the machine gives it the no-op effect that R111 and R113 state (Machine/Consume.lean).
PRESUMED (notes/assumptions/1.md, 2.md): the bit positions of the colour and scroll fields are the spec's own general
knowledge (93_implementation_defined.md G1, G2). -/

namespace Sys2Proof

/-- R80: one packet, a fixed 24-byte record. -/
abbrev Record := Vector Byte 24

/-- Why a byte string or record is none of the nine instructions. -/
inductive Reject where
  /-- R64: the bytes are not one whole 24-byte record. -/
  | partialRecord
  /-- R96: the command field is not 9, so the packet is a no-op of the decoder. -/
  | nonCdg
  /-- R97: command 9 with an instruction code outside R95, "silently ignored". -/
  | unusedCode (code : BitVec 6)
  deriving DecidableEq, Repr

/-! ## Field extraction (R81 to R93) -/

/-- R81: `cmd = byte0 & 0x3F`. -/
def cmdField (p : Record) : BitVec 6 := p[0].setWidth 6

/-- R82: `instr = byte1 & 0x3F`. -/
def instrField (p : Record) : BitVec 6 := p[1].setWidth 6

/-- R84: `data[j] = byte(4 + j)`. -/
def dataByte (p : Record) (j : Fin 16) : Byte := p[4 + j.val]

/-- R86: a colour operand (and R87: the repeat operand), the low nibble of a data byte. -/
def nibbleField (p : Record) (j : Fin 16) : BitVec 4 := (dataByte p j).setWidth 4

/-- R89: `row = data[2] & 0x1F`. -/
def rowField (p : Record) : BitVec 5 := (dataByte p 2).setWidth 5

/-- R89: `col = data[3] & 0x3F`. -/
def colField (p : Record) : BitVec 6 := (dataByte p 3).setWidth 6

/-- R89: `bits[i] = data[4 + i] & 0x3F`, for `i` in 0..11. -/
def tileRows (p : Record) : Vector (BitVec 6) 12 :=
  Vector.ofFn fun i => (dataByte p ⟨4 + i.val, by omega⟩).setWidth 6

/-- R90: `hCmd` and `vCmd` are bits 5:4 of their data byte. PRESUMED (notes/assumptions/2.md). -/
def scrollCmdField (p : Record) (j : Fin 16) : BitVec 2 := (dataByte p j).extractLsb' 4 2

/-- R90: `hOffNew` is bits 2:0 of data[1]. PRESUMED (notes/assumptions/2.md). -/
def hOffField (p : Record) : BitVec 3 := (dataByte p 1).setWidth 3

/-- R90: `vOffNew` is bits 3:0 of data[2]. PRESUMED (notes/assumptions/2.md). -/
def vOffField (p : Record) : BitVec 4 := (dataByte p 2).setWidth 4

/-- R92: the three channels of a colour from its two data bytes. PRESUMED (notes/assumptions/1.md). -/
def rgbOfBytes (a b : Byte) : Rgb12 where
  r := a.extractLsb' 2 4
  g := a.extractLsb' 0 2 ++ b.extractLsb' 4 2
  b := b.extractLsb' 0 4

/-- R92: colour `k` occupies data[2k] and data[2k+1]. -/
def rgbFields (p : Record) : Vector Rgb12 8 :=
  Vector.ofFn fun k => rgbOfBytes (dataByte p ⟨2 * k.val, by omega⟩) (dataByte p ⟨2 * k.val + 1, by omega⟩)

/-! ## The decoder -/

/-- R95 to R98: the instruction of a record, or the name of the reason it is none of the nine. -/
def decodeRecord (p : Record) : Except Reject Instr :=
  if cmdField p ≠ Config.cdgCommand then .error .nonCdg
  else
    match (instrField p).toNat with
    | 1 => .ok (.memPreset (nibbleField p 0) (nibbleField p 1))
    | 2 => .ok (.borderPreset (nibbleField p 0))
    | 6 => .ok (.tile (nibbleField p 0) (nibbleField p 1) (rowField p) (colField p) (tileRows p))
    | 20 => .ok (.scrollPreset (nibbleField p 0) (scrollCmdField p 1) (hOffField p) (scrollCmdField p 2) (vOffField p))
    | 24 => .ok (.scrollCopy (scrollCmdField p 1) (hOffField p) (scrollCmdField p 2) (vOffField p))
    | 28 => .ok .defTransp
    | 30 => .ok (.colorsLow (rgbFields p))
    | 31 => .ok (.colorsHigh (rgbFields p))
    | 38 => .ok (.tileXor (nibbleField p 0) (nibbleField p 1) (rowField p) (colField p) (tileRows p))
    | _ => .error (.unusedCode (instrField p))

/-- The 24 bytes of a list as a record, where it has exactly 24 (R80, R99). -/
def recordOfBytes (bs : List Byte) : Option Record :=
  if h : bs.length = 24 then some ⟨bs.toArray, by simpa using h⟩ else none

/-- The decoder on any byte string: one whole record decodes, anything else is no record (R64). -/
def decode (bs : List Byte) : Except Reject Instr :=
  match recordOfBytes bs with
  | some p => decodeRecord p
  | none => .error .partialRecord

/-! ## Encoding tables -/

/-- One row of spec/opcode_table.json over the 16-bit header word `H = {byte0, byte1}` (R85). -/
structure OpcodeRow where
  mnemonic : String
  mask : BitVec 16
  pattern : BitVec 16
  deriving DecidableEq, Repr

/-- The table of R95 with the masks of R85. -/
def opcodeRows : List OpcodeRow :=
  [⟨"MEMPRESET", 0x3F3F#16, 0x0901#16⟩, ⟨"BORDERPRESET", 0x3F3F#16, 0x0902#16⟩, ⟨"TILE", 0x3F3F#16, 0x0906#16⟩,
   ⟨"SCROLLPRESET", 0x3F3F#16, 0x0914#16⟩, ⟨"SCROLLCOPY", 0x3F3F#16, 0x0918#16⟩, ⟨"DEFTRANSP", 0x3F3F#16, 0x091C#16⟩,
   ⟨"COLORSLOW", 0x3F3F#16, 0x091E#16⟩, ⟨"COLORSHIGH", 0x3F3F#16, 0x091F#16⟩, ⟨"TILEXOR", 0x3F3F#16, 0x0926#16⟩]

/-- Two rows that no header word matches together. -/
def OpcodeRow.disjoint (a b : OpcodeRow) : Bool :=
  (a.mask &&& b.mask &&& (a.pattern ^^^ b.pattern)) ≠ 0

/-- R85: the header word of a record, byte 0 in bits 15:8 and byte 1 in bits 7:0. -/
def headerWord (p : Record) : BitVec 16 := p[0] ++ p[1]

/-- R95: the instruction code of an instruction. -/
def Instr.code : Instr → BitVec 6
  | .memPreset _ _ => 1#6
  | .borderPreset _ => 2#6
  | .tile _ _ _ _ _ => 6#6
  | .scrollPreset _ _ _ _ _ => 20#6
  | .scrollCopy _ _ _ _ => 24#6
  | .defTransp => 28#6
  | .colorsLow _ => 30#6
  | .colorsHigh _ => 31#6
  | .tileXor _ _ _ _ _ => 38#6

/-! ## The encoder (R80, R87 to R93; ignored bits and parity bytes 0 as R100 writes them) -/

/-- A record from its two header bytes and its 16 data bytes, parity bytes 0. -/
def makeRecord (byte0 byte1 : Byte) (data : Vector Byte 16) : Record :=
  Vector.ofFn fun i =>
    if i.val = 0 then byte0
    else if i.val = 1 then byte1
    else if h : 4 ≤ i.val ∧ i.val < 20 then data[i.val - 4]
    else 0#8

/-- R90: a scroll data byte from its direction code and offset. -/
def scrollByte {n : Nat} (cmd : BitVec 2) (off : BitVec n) : Byte := (cmd.setWidth 8 <<< 4) ||| off.setWidth 8

/-- R92: the first data byte of a colour, `(R << 2) | (G >> 2)`. -/
def rgbHighByte (c : Rgb12) : Byte := (c.r.setWidth 8 <<< 2) ||| (c.g.setWidth 8 >>> 2)

/-- R92: the second data byte of a colour, `((G & 3) << 4) | B`. -/
def rgbLowByte (c : Rgb12) : Byte := ((c.g.setWidth 8 &&& 3#8) <<< 4) ||| c.b.setWidth 8

/-- R89: the data bytes of a tile packet. -/
def tileData (color0 color1 : BitVec 4) (row : BitVec 5) (col : BitVec 6) (bits : Vector (BitVec 6) 12) : Vector Byte 16 :=
  Vector.ofFn fun j =>
    if j.val = 0 then color0.setWidth 8
    else if j.val = 1 then color1.setWidth 8
    else if j.val = 2 then row.setWidth 8
    else if j.val = 3 then col.setWidth 8
    else if h : 4 ≤ j.val then (bits[j.val - 4]'(by omega)).setWidth 8
    else 0#8

/-- R92: the data bytes of a colour packet. -/
def rgbData (rgb : Vector Rgb12 8) : Vector Byte 16 :=
  Vector.ofFn fun j =>
    if j.val % 2 = 0 then rgbHighByte (rgb[j.val / 2]'(by omega)) else rgbLowByte (rgb[j.val / 2]'(by omega))

/-- Data bytes given from data[0] on, the rest 0. -/
def dataFrom (bs : List Byte) : Vector Byte 16 := Vector.ofFn fun j => bs.getD j.val 0#8

/-- The data bytes of an instruction (R87 to R93). -/
def encodeData : Instr → Vector Byte 16
  | .memPreset color rep => dataFrom [color.setWidth 8, rep.setWidth 8]
  | .borderPreset color => dataFrom [color.setWidth 8]
  | .tile color0 color1 row col bits => tileData color0 color1 row col bits
  | .scrollPreset color hCmd hOffNew vCmd vOffNew =>
    dataFrom [color.setWidth 8, scrollByte hCmd hOffNew, scrollByte vCmd vOffNew]
  | .scrollCopy hCmd hOffNew vCmd vOffNew => dataFrom [0#8, scrollByte hCmd hOffNew, scrollByte vCmd vOffNew]
  | .defTransp => dataFrom []
  | .colorsLow rgb => rgbData rgb
  | .colorsHigh rgb => rgbData rgb
  | .tileXor color0 color1 row col bits => tileData color0 color1 row col bits

/-- The record of an instruction. -/
def encode (i : Instr) : Record := makeRecord 0x09#8 (i.code.setWidth 8) (encodeData i)

/-! ## The host's numbering of a table word -/

/-- The record whose bits are `w` as spec/opcode_table.json numbers them (R85): 16-bit words, bit 0 the least
significant bit of the first word `H`, each word stored high byte first; every bit from `nbits` on is 0. -/
def recordOfTableWord (nbits w : Nat) : Record :=
  Vector.ofFn fun i =>
    let word := (w % 2 ^ nbits) >>> (16 * (i.val / 2)) % 65536
    if i.val % 2 = 0 then BitVec.ofNat 8 (word / 256) else BitVec.ofNat 8 word

/-- The instruction the decoder reads from a table word. -/
def decodeTableWord (nbits w : Nat) : Option Instr := (decodeRecord (recordOfTableWord nbits w)).toOption

/-! ## The assembler (R100) -/

/-- R100: the two data bytes of a 12-bit `0xRGB`. -/
def rgbBytes (rgb : Nat) : List Byte :=
  let c : Rgb12 := ⟨BitVec.ofNat 4 (rgb / 256), BitVec.ofNat 4 (rgb / 16), BitVec.ofNat 4 rgb⟩
  [rgbHighByte c, rgbLowByte c]

/-- R100: one CDG packet from its second byte and the data bytes that the line sets. -/
def asmPacket (byte1 : Byte) (data : List Byte) : Record := makeRecord 0x09#8 byte1 (dataFrom data)

/-- Numbers as bytes. -/
def asmBytes (ns : List Nat) : List Byte := ns.map (BitVec.ofNat 8)

/-- R100: the records of a line, by the table of that rule. -/
def SrcLine.records : SrcLine → List Record
  | .nop => [Vector.replicate 24 0#8]
  | .memPreset color rep => [asmPacket 0x01#8 (asmBytes [color, rep])]
  | .borderPreset color => [asmPacket 0x02#8 (asmBytes [color])]
  | .tile c0 c1 row col rows => [asmPacket 0x06#8 (asmBytes ([c0, c1, row, col] ++ rows))]
  | .tileXor c0 c1 row col rows => [asmPacket 0x26#8 (asmBytes ([c0, c1, row, col] ++ rows))]
  | .scrollPreset color hcmd hoff vcmd voff =>
    [asmPacket 0x14#8 (asmBytes [color, hcmd * 16 + hoff, vcmd * 16 + voff])]
  | .scrollCopy hcmd hoff vcmd voff => [asmPacket 0x18#8 (asmBytes [0, hcmd * 16 + hoff, vcmd * 16 + voff])]
  | .defTransp => [asmPacket 0x1C#8 []]
  | .colorsLow rgb => [asmPacket 0x1E#8 (rgb.flatMap rgbBytes)]
  | .colorsHigh rgb => [asmPacket 0x1F#8 (rgb.flatMap rgbBytes)]
  | .raw bytes => [Vector.ofFn fun i => (asmBytes bytes).getD i.val 0#8]
  | .pad n => List.replicate n (Vector.replicate 24 0#8)
  | .tile1 c0 c1 row col b => [asmPacket 0x06#8 (asmBytes ([c0, c1, row, col] ++ List.replicate 12 b))]
  | .tileXor1 c0 c1 row col b => [asmPacket 0x26#8 (asmBytes ([c0, c1, row, col] ++ List.replicate 12 b))]

/-- R100: a line's records, or an assembler error. -/
def SrcLine.assemble (l : SrcLine) : Option (List Record) := if l.wf then some l.records else none

/-- R100: the records of a program, or an assembler error at some line. -/
def assembleProgram (ls : List SrcLine) : Option (List Record) :=
  ls.foldr (fun l acc => match l.assemble, acc with
    | some rs, some rest => some (rs ++ rest)
    | _, _ => none) (some [])

/-- The byte string that holds the records one after another (R61, R64). -/
def bytesOfRecords (rs : List Record) : List Byte := rs.flatMap Vector.toList

end Sys2Proof
end

