-- ==== Sys2Proof/Machine/State.lean ====
section
/-! DEFINITION. The state of the block (10_state.md R30 to R53) as plain data, its reasons to stop, and the
state after reset. The fields `pending`, `phase`, `changed` and `replies` are the MODEL's own (INVENTORY.md,
State; notes/assumptions/4.md): the host's transactions are inputs of the block, and one `step` is one unit of work of a
transaction (at most one packet). `cfg` carries the four parameters that the spec says a model takes as
an argument; no step writes it. -/

namespace Sys2Proof.Machine

/-- Reasons the machine stops with a fault. The block itself has none (R280); these two are the cases the
spec calls `stuck` ("cannot arise", I20), which only states that no run reaches can meet. -/
inductive Fault where
  /-- Raised by `consume` when no stream is loaded, where R110 leaves Consume undefined. Safe: the machine
  stops where the hardware has no such case. -/
  | consumeUnloaded
  /-- Raised by `consume` when the cursor is at or beyond `S.N` (I20: a read beyond the buffer). Safe: the
  machine stops where the hardware has no such case. -/
  | readPastBuffer
  deriving DecidableEq, Repr

/-- Reasons a run ends with a refusal. -/
inductive Refusal where
  /-- Raised by `exec` for an instruction that has no meaning yet (none). Safe: nothing is claimed of it. -/
  | notModelled (mnemonic : String)
  /-- Raised by TILE and TILEXOR at a position outside the canvas under `TILE_OOB_POLICY = refuse` only (R282,
  "This is the only refusal the spec defines"). Safe: the run ends where the spec says it does. -/
  | tileOutsideCanvas
  deriving DecidableEq, Repr

/-! ## Byte-addressed spaces (R60) -/

/-- A byte-addressed space of `size` bytes (the input buffer, a frame): the listed cells, by strictly rising
address, hold the bytes other than `Memory.background`; every other address below `size` holds that byte. -/
structure Memory where
  size : Nat
  cells : List Host.Cell
  deriving DecidableEq, Repr

/-- What an unlisted address inside a space reads as. A matter of representation: LOAD (R230) and Snapshot (R212)
give every byte of their space, so no byte that nothing has written exists (notes/assumptions/5.md). -/
def Memory.background : Byte := 0#8

/-- Addresses strictly rising. -/
def Memory.rising : List Host.Cell → Bool
  | [] => true
  | [_] => true
  | x :: y :: rest => x.1 < y.1 && rising (y :: rest)

/-- The canonical form: rising addresses below `size`, no listed background byte. Two spaces in this form
with the same size and bytes are equal data. -/
def Memory.wf (m : Memory) : Bool :=
  Memory.rising m.cells && m.cells.all fun x => x.1 < m.size && x.2 != Memory.background

/-- The space of no bytes. -/
def Memory.empty : Memory := ⟨0, []⟩

/-! ## Canvas (R34 to R39) -/

/-- R34: the index grid, 216 rows of 300 cells, row first. -/
abbrev Grid := Vector (Vector Cell 300) 216

/-- R36: a palette entry. -/
structure Rgb where
  r : Byte
  g : Byte
  b : Byte
  deriving DecidableEq, Repr

/-- R38: the dedup state. -/
inductive LastCommand where
  | none
  | memoryPreset (c : Cell)
  deriving DecidableEq, Repr

/-- R34 to R38: the Canvas part of the state, all that an instruction reads or writes (R114). -/
structure Canvas where
  /-- R34 `S.canvas`. -/
  grid : Grid
  /-- R36 `S.pal`. -/
  pal : Vector Rgb 16
  /-- R37 `S.hOff`, 0..5. -/
  hOff : Fin 6
  /-- R37 `S.vOff`, 0..11. -/
  vOff : Fin 12
  /-- R38 `S.last`. -/
  last : LastCommand
  deriving DecidableEq, Repr

/-- R51 `FreshCanvas`. The offsets and `last` are the spec's decision D24 (notes/assumptions/6.md). -/
def Canvas.fresh : Canvas where
  grid := Vector.replicate 216 (Vector.replicate 300 0#4)
  pal := Vector.replicate 16 ⟨0#8, 0#8, 0#8⟩
  hOff := 0
  vOff := 0
  last := .none

/-! ## Reader (R40 to R46) -/

/-- R40 to R46: the FrameIndex cursors and flags. -/
structure Reader where
  /-- R40 `S.pkt_idx`, the read cursor: the block's program counter. -/
  pktIdx : Nat
  /-- R41 `S.cur_idx`. -/
  curIdx : Nat
  /-- R42 `S.next_idx`. -/
  nextIdx : Nat
  /-- R44 `S.last_change`. -/
  lastChange : Option Nat
  /-- R45 `S.eos`. -/
  eos : Bool
  /-- R46 `S.started`. -/
  started : Bool
  deriving DecidableEq, Repr

/-- R52 `FreshReader`. -/
def Reader.fresh : Reader where
  pktIdx := 0
  curIdx := 0
  nextIdx := 0
  lastChange := none
  eos := false
  started := false

/-! ## Transactions (R233) and the model's own fields -/

/-- R233: the host transactions. A seek argument is a natural number (R253). -/
inductive Transaction where
  | load (bytes : List Byte)
  | unload
  | move
  | seek (ms : Nat)
  | totalMs
  | curPosMs
  | curDurMs
  | finalPosMs
  | readFrame
  deriving DecidableEq, Repr

/-- R245: what a successful MOVE delivers. -/
structure Delivery where
  frame : Memory
  posMs : Nat
  durMs : Nat
  deriving DecidableEq, Repr

/-- R233: the responses. -/
inductive Response where
  /-- LOAD and UNLOAD answer nothing but that they are done. -/
  | done
  /-- MOVE: `some` is `ok = true` with what it delivers, `none` is `ok = false` (no data or end of stream). -/
  | move (delivered : Option Delivery)
  /-- SEEK's Boolean. -/
  | seek (ok : Bool)
  /-- TOTAL_MS, CUR_POS_MS, CUR_DUR_MS. -/
  | ms (n : Nat)
  /-- FINAL_POS_MS, -1 = undefined (R14). -/
  | finalPos (n : Int)
  /-- READ_FRAME. -/
  | frame (f : Option Memory)
  deriving DecidableEq, Repr

/-- MODEL's own: where the transaction in progress stands in the pseudocode of 46_frame_index.md. -/
inductive Phase where
  /-- No transaction is in progress. -/
  | idle
  /-- In the baseline loop of MOVE's step 1 (R240). -/
  | baseline
  /-- In the frame loop of MOVE's step 3 (R242). -/
  | frameLoop
  /-- In the replay or fast-forward loop of SEEK (R250), towards this packet index. -/
  | seekTo (target : Nat)
  deriving DecidableEq, Repr

/-- The whole state. -/
structure State where
  /-- The parameters of R8, R12 and R13: fixed for a run, written by no step. -/
  cfg : Params
  /-- R32 `S.loaded`. -/
  loaded : Bool
  /-- R33 `S.buf`, the input buffer. -/
  buf : Memory
  /-- R34 to R38: the Canvas. -/
  canvas : Canvas
  /-- R40 to R46: the Reader. -/
  reader : Reader
  /-- R47 `S.frame`. -/
  frame : Option Memory
  /-- MODEL's own: the transactions the host has still to issue, in the order in which they reach the block (R70). -/
  pending : List Transaction
  /-- MODEL's own: where the transaction in progress stands. -/
  phase : Phase
  /-- R48 `changed`, the local of the transaction in progress; false while none is. -/
  changed : Bool
  /-- MODEL's own: the responses given so far, oldest first. -/
  replies : List Response
  deriving DecidableEq, Repr

/-- The power-on column of R53 (R300, R302), parameters at their defaults, nothing asked yet. -/
def State.reset : State where
  cfg := Params.default
  loaded := false
  buf := Memory.empty
  canvas := Canvas.fresh
  reader := Reader.fresh
  frame := none
  pending := []
  phase := .idle
  changed := false
  replies := []

end Sys2Proof.Machine
end

