-- ==== Sys2Proof/Machine/Ops.lean ====
section
/-! DEFINITION. The named operations over the state: byte-addressed memory (R17, R60, R61), the grid (R34), the
packet-time conversions (R20), single-field updates of State, and the bookkeeping of the consume step
(R110). Taking an exception and returning from one have no operation here: the block has no exception, no
trap and no interrupt (R280, R283, R285, R286), so nothing is ever saved or restored. -/

namespace Sys2Proof.Machine

/-! ## Byte-addressed memory -/

/-- The byte listed for an address, the background byte where none is listed. -/
def Memory.lookup (a : Nat) : List Host.Cell → Byte
  | [] => Memory.background
  | x :: rest => if x.1 = a then x.2 else lookup a rest

/-- The byte at an address, where the address exists (R17, R60). -/
def Memory.read (m : Memory) (a : Nat) : Option Byte :=
  if a < m.size then some (Memory.lookup a m.cells) else none

/-- R17 `MemRead(a, n)`: the `n` bytes from `a` on, defined only inside the space. -/
def Memory.readBytes (m : Memory) (a n : Nat) : Option (List Byte) :=
  if a + n ≤ m.size then some ((List.range n).map fun i => Memory.lookup (a + i) m.cells) else none

/-- The bytes of a space in order. -/
def Memory.toBytes (m : Memory) : List Byte := (List.range m.size).map fun a => Memory.lookup a m.cells

/-- The listed cells of a byte string whose first byte is at address `a`. -/
def Memory.cellsFrom (a : Nat) : List Byte → List Host.Cell
  | [] => []
  | b :: rest => if b = Memory.background then cellsFrom (a + 1) rest else (a, b) :: cellsFrom (a + 1) rest

/-- The space that holds a byte string from address 0 on. -/
def Memory.ofBytes (bs : List Byte) : Memory := ⟨bs.length, Memory.cellsFrom 0 bs⟩

/-- The listed cells with one byte changed, the canonical form kept. -/
def Memory.put (a : Nat) (b : Byte) : List Host.Cell → List Host.Cell
  | [] => if b = Memory.background then [] else [(a, b)]
  | x :: rest =>
    if a < x.1 then (if b = Memory.background then x :: rest else (a, b) :: x :: rest)
    else if a = x.1 then (if b = Memory.background then rest else (a, b) :: rest)
    else x :: put a b rest

/-- One byte written; an address outside the space writes nothing. -/
def Memory.write (m : Memory) (a : Nat) (b : Byte) : Memory :=
  if a < m.size then { m with cells := Memory.put a b m.cells } else m

/-- R17 `MemWrite`: a byte list written from `a` on. -/
def Memory.writeBytes (m : Memory) (a : Nat) : List Byte → Memory
  | [] => m
  | b :: rest => writeBytes (m.write a b) (a + 1) rest

/-- The space made at least `n` bytes long. -/
def Memory.grow (m : Memory) (n : Nat) : Memory := { m with size := max m.size n }

/-- R33 `S.N`: the number of whole packets in the buffer. -/
def Memory.packets (m : Memory) : Nat := m.size / Config.pktBytes

/-- R19, R61: packet `k`, the 24 bytes from `24*k` on (used for `k < S.N` only). -/
def Memory.record (m : Memory) (k : Nat) : Record :=
  Vector.ofFn fun i => Memory.lookup (Config.pktBytes * k + i.val) m.cells

/-- The buffer with a record stored as packet `k`, made long enough to hold it. -/
def Memory.storeRecord (m : Memory) (k : Nat) (p : Record) : Memory :=
  (m.grow (Config.pktBytes * (k + 1))).writeBytes (Config.pktBytes * k) p.toList

/-! ## Grid -/

/-- A vector given entry by entry. -/
def tabulate {α : Type} (n : Nat) (f : Fin n → α) : Vector α n := ⟨(List.ofFn f).toArray, by simp⟩

/-- A grid given cell by cell, row first. -/
def Grid.tabulate (f : Fin 216 → Fin 300 → Cell) : Grid :=
  Machine.tabulate 216 fun r => Machine.tabulate 300 fun c => f r c

/-- R16 `S.canvas[r][c]`. -/
def Grid.cell (g : Grid) (r : Fin 216) (c : Fin 300) : Cell := (g[r.val])[c.val]

/-- Every cell at one colour. -/
def Grid.fill (color : Cell) : Grid := Vector.replicate 216 (Vector.replicate 300 color)

/-! ## Packet-time conversions (R20) -/

/-- R20 `pkt_to_ms(p) = (p * 1000) div 300`, multiply first (notes/assumptions/16.md). -/
def pktToMs (p : Nat) : Nat := p * 1000 / Config.packetsPerSecond

/-- R20 `ms_to_pkt(m) = (m * 300) div 1000`. -/
def msToPkt (m : Nat) : Nat := m * Config.packetsPerSecond / 1000

/-! ## Single-field updates of State -/

/-- R33 `S.N` of the state's buffer. -/
def State.packets (s : State) : Nat := s.buf.packets

def State.setCanvas (s : State) (c : Canvas) : State := { s with canvas := c }
def State.setReader (s : State) (r : Reader) : State := { s with reader := r }
def State.setFrame (s : State) (f : Option Memory) : State := { s with frame := f }
def State.setPending (s : State) (l : List Transaction) : State := { s with pending := l }
def State.setPhase (s : State) (p : Phase) : State := { s with phase := p }
def State.setChanged (s : State) (b : Bool) : State := { s with changed := b }

/-- One more response to the host. -/
def State.reply (s : State) (r : Response) : State := { s with replies := s.replies ++ [r] }

/-- The stream held (R230) or dropped (R231). -/
def State.setStream (s : State) (loaded : Bool) (buf : Memory) : State := { s with loaded := loaded, buf := buf }

/-! ## Outcomes -/

/-- Go on from a next state; a fault or a refusal stays. -/
def andThen (o : Host.Outcome State Fault Refusal) (k : State → Host.Outcome State Fault Refusal) :
    Host.Outcome State Fault Refusal :=
  match o with
  | .next s => k s
  | .fault r => .fault r
  | .refused r => .refused r

/-! ## The bookkeeping of the consume step (R110) -/

/-- R110: the reader after one packet whose change bit is `ch`: `last_change` names it if it changed, and the
cursor advances by exactly 1. -/
def Reader.consumed (r : Reader) (ch : Bool) : Reader :=
  { r with pktIdx := r.pktIdx + 1, lastChange := if ch then some r.pktIdx else r.lastChange }

/-- R110, R242: one packet consumed with change bit `ch`; the transaction's local `changed` (R48) takes it in. -/
def State.advance (s : State) (ch : Bool) : State :=
  { s with reader := s.reader.consumed ch, changed := s.changed || ch }

/-- R112, R113: a CDG packet consumed: the canvas its rule leaves, then `last`, then the bookkeeping. -/
def finishCdg (s : State) (last : LastCommand) (res : Canvas × Bool) : Host.Outcome State Fault Refusal :=
  .next ((s.setCanvas { res.1 with last := last }).advance res.2)

/-- R301, R300: the state with Canvas and Reader made fresh (LOAD, UNLOAD, rewind). -/
def State.rewound (s : State) : State := { s with canvas := Canvas.fresh, reader := Reader.fresh }

end Sys2Proof.Machine
end

