-- ==== Sys2Proof/Machine/Operands.lean ====
section
/-! DEFINITION. What an operand means where it is used (R94): the tile position in pixels and the bit of a
row byte that a column selects (R89, R150), the direction codes of a scroll (R91, R170), the fill of a
vacated cell (R170), the colour of a palette operand (R190), and the offset fields (R172). -/

namespace Sys2Proof.Machine

/-! ## Tiles (R89, R94, R150) -/

/-- R150: the tile position is inside the canvas, `row < 18` and `col < 50`. -/
def tileInside (row : BitVec 5) (col : BitVec 6) : Bool :=
  row.toNat < Config.tileRows && col.toNat < Config.tileCols

/-- R94, R150: `y0 = row * 12`. -/
def tileY0 (row : BitVec 5) : Nat := row.toNat * Config.tileH

/-- R94, R150: `x0 = col * 6`. -/
def tileX0 (col : BitVec 6) : Nat := col.toNat * Config.tileW

/-- The cell lies in the tile: one of rows `y0 .. y0+11` and columns `x0 .. x0+5`. -/
abbrev inTile (row : BitVec 5) (col : BitVec 6) (r c : Nat) : Prop :=
  tileY0 row ≤ r ∧ r < tileY0 row + 12 ∧ tileX0 col ≤ c ∧ c < tileX0 col + 6

/-- R150: the colour at tile row `i`, tile column `j`: `color1` where bit `5 - j` of the row byte is set. -/
def tileColour (color0 color1 : BitVec 4) (bits : Vector (BitVec 6) 12) (i : Fin 12) (j : Nat) : Cell :=
  if bits[i.val].getLsbD (5 - j) then color1 else color0

/-! ## Scrolls (R91, R170, R172) -/

/-- R170: what a vacated cell takes: a flat colour (ScrollPreset) or the scrolled-off content (ScrollCopy). -/
inductive Fill where
  | flat (color : Cell)
  | wrap
  deriving DecidableEq, Repr

/-- R91, R170: the source distance of a direction code: code 1 takes the cell `unit` before, code 2 the cell
`unit` after, codes 0 and 3 do not shift (D10). PRESUMED which of 1 and 2 is which (notes/assumptions/3.md). -/
def shiftDelta (cmd : BitVec 2) (unit : Int) : Option Int :=
  match cmd.toNat with
  | 1 => some (-unit)
  | 2 => some unit
  | _ => none

/-- R170: `s mod n`, the non-negative remainder, as an index. -/
def modIndex (n : Nat) (h : 0 < n) (s : Int) : Fin n :=
  ⟨(s % n).toNat, by
    have h1 := Int.emod_lt_of_pos s (Int.natCast_pos.mpr h)
    have h2 := Int.emod_nonneg s (Int.natCast_ne_zero_iff_pos.mpr h)
    omega⟩

/-- R172: an offset field against its maximum, under `SCROLL_OFF_OOB_POLICY`. -/
def newOffset (policy : ScrollOobPolicy) (max field : Nat) (old : Fin (max + 1)) : Fin (max + 1) :=
  if h : field ≤ max then ⟨field, by omega⟩
  else
    match policy with
    | .keep => old
    | .clamp => ⟨max, by omega⟩

/-! ## Colours (R190) -/

/-- R190: "each 4-bit channel value is scaled to 0–255 by multiplying by 17". -/
def scaleChannel (v : BitVec 4) : Byte := v.setWidth 8 * Config.chScale

/-- R190: the palette entry of a colour operand. -/
def unpack (c : Rgb12) : Rgb := ⟨scaleChannel c.r, scaleChannel c.g, scaleChannel c.b⟩

end Sys2Proof.Machine
end

