-- ==== Sys2Proof/Machine/Flags.lean ====
section
/-! DEFINITION. The block has no status flags (R31); what an instruction reports is its change bit (R115) and
what it leaves in `S.last` (R113). Here are the two change bits that are computed (a repeat of
MemoryPreset, R130, and a palette load, R191 and R192) and the LastCommand update. -/

namespace Sys2Proof.Machine

/-- R130: a deduplicated repeat: the repeat nibble is not 0 and `S.last` is a MemoryPreset of the same colour
(D8: "identical" means the same colour; notes/assumptions/7.md). -/
def isDedupRepeat (color rep : BitVec 4) (last : LastCommand) : Bool :=
  rep ≠ 0#4 && last = .memoryPreset color

/-- R191, R192: some entry of the eight differs from its previous 24-bit value. -/
def entriesDiffer (base : Nat) (h : base + 8 ≤ 16) (rgb : Vector Rgb12 8) (pal : Vector Rgb 16) : Bool :=
  (List.finRange 8).any fun k => unpack rgb[k.val] ≠ pal[base + k.val]

/-- R113: `S.last` after a CDG packet: the colour for a MemoryPreset, `None` for every other code (D7:
notes/assumptions/7.md). -/
def updateLast : Instr → LastCommand
  | .memPreset color _ => .memoryPreset color
  | .borderPreset _ => .none
  | .tile _ _ _ _ _ => .none
  | .scrollPreset _ _ _ _ _ => .none
  | .scrollCopy _ _ _ _ => .none
  | .defTransp => .none
  | .colorsLow _ => .none
  | .colorsHigh _ => .none
  | .tileXor _ _ _ _ _ => .none

end Sys2Proof.Machine
end

