-- ==== Sys2Proof/Machine/Colours.lean ====
section
/-! DEFINITION. 44_palette.md: COLORSLOW (code 30), COLORSHIGH (code 31) and DEFTRANSP (code 28). -/

namespace Sys2Proof.Machine

/-- R191, R192: the eight entries from `base` on take their colours; the change bit says whether one differs
from its previous value. -/
def loadColours (base : Nat) (h : base + 8 ≤ 16) (rgb : Vector Rgb12 8) (cv : Canvas) : Canvas × Bool :=
  ({ cv with
      pal := tabulate 16 fun i =>
        if hi : base ≤ i.val ∧ i.val < base + 8 then unpack (rgb[i.val - base]'(by omega)) else cv.pal[i.val] },
    entriesDiffer base h rgb cv.pal)

/-- R191: `COLORSLOW rgb0, ..., rgb7`: entries 0 to 7. -/
def execColorsLow (rgb : Vector Rgb12 8) (s : State) : Host.Outcome State Fault Refusal :=
  finishCdg s (updateLast (.colorsLow rgb)) (loadColours 0 (by decide) rgb s.canvas)

/-- R192: `COLORSHIGH rgb8, ..., rgb15`: entries 8 to 15. -/
def execColorsHigh (rgb : Vector Rgb12 8) (s : State) : Host.Outcome State Fault Refusal :=
  finishCdg s (updateLast (.colorsHigh rgb)) (loadColours 8 (by decide) rgb s.canvas)

/-- R193: `DEFTRANSP`: no canvas write, never a change. -/
def execDefTransp (s : State) : Host.Outcome State Fault Refusal :=
  finishCdg s (updateLast .defTransp) (s.canvas, false)

end Sys2Proof.Machine
end

