-- ==== Sys2Proof/Machine/Presets.lean ====
section
/-! DEFINITION. 41_presets.md: MEMPRESET (code 1) and BORDERPRESET (code 2). -/

namespace Sys2Proof.Machine

/-- R130 `MemoryPreset(p)`: a deduplicated repeat writes nothing and reports no change; otherwise the whole
canvas is filled. -/
def memoryPreset (color rep : BitVec 4) (cv : Canvas) : Canvas × Bool :=
  if isDedupRepeat color rep cv.last then (cv, false)
  else ({ cv with grid := Grid.fill color }, true)

/-- R131: the cell lies in one of the four border bands. -/
abbrev inBorder (bottom : BorderBottom) (r c : Nat) : Prop :=
  r < Config.borderTopRows ∨ r ≥ Config.canvasH - bottom.rows ∨
    c < Config.borderSideCols ∨ c ≥ Config.canvasW - Config.borderSideCols

/-- R131 `BorderPreset(p)`: the border bands are filled; "yes, always" a change. -/
def borderPreset (bottom : BorderBottom) (color : BitVec 4) (cv : Canvas) : Canvas × Bool :=
  ({ cv with grid := Grid.tabulate fun r c => if inBorder bottom r.val c.val then color else cv.grid.cell r c }, true)

/-- R130: `MEMPRESET color, repeat`. -/
def execMemPreset (color rep : BitVec 4) (s : State) : Host.Outcome State Fault Refusal :=
  finishCdg s (updateLast (.memPreset color rep)) (memoryPreset color rep s.canvas)

/-- R131: `BORDERPRESET color`. -/
def execBorderPreset (color : BitVec 4) (s : State) : Host.Outcome State Fault Refusal :=
  finishCdg s (updateLast (.borderPreset color)) (borderPreset s.cfg.borderBottom color s.canvas)

end Sys2Proof.Machine
end

