-- ==== Sys2Proof/Machine/Scrolls.lean ====
section
/-! DEFINITION. 43_scroll.md: SCROLLPRESET (code 20) and SCROLLCOPY (code 24). -/

namespace Sys2Proof.Machine

/-- R170 `HShift(hCmd, fill)`: column `c` takes old column `c + d`; a vacated cell takes the fill. -/
def hShift (cmd : BitVec 2) (fill : Fill) (g : Grid) : Grid :=
  match shiftDelta cmd Config.tileW with
  | none => g
  | some d =>
    Grid.tabulate fun r c =>
      let src : Int := c.val + d
      if 0 ≤ src ∧ src < 300 then g.cell r (modIndex 300 (by decide) src)
      else
        match fill with
        | .flat color => color
        | .wrap => g.cell r (modIndex 300 (by decide) src)

/-- R170 `VShift(vCmd, fill)`: the same over rows, by 12 of 216. -/
def vShift (cmd : BitVec 2) (fill : Fill) (g : Grid) : Grid :=
  match shiftDelta cmd Config.tileH with
  | none => g
  | some d =>
    Grid.tabulate fun r c =>
      let src : Int := r.val + d
      if 0 ≤ src ∧ src < 216 then g.cell (modIndex 216 (by decide) src) c
      else
        match fill with
        | .flat color => color
        | .wrap => g.cell (modIndex 216 (by decide) src) c

/-- R171, R172: the canvas after a scroll packet: HShift, then VShift (D13), then SetOffsets. -/
def scrolled (policy : ScrollOobPolicy) (fill : Fill) (hCmd : BitVec 2) (hOffNew : BitVec 3) (vCmd : BitVec 2)
    (vOffNew : BitVec 4) (cv : Canvas) : Canvas :=
  { cv with
    grid := vShift vCmd fill (hShift hCmd fill cv.grid)
    hOff := newOffset policy Config.hOffMax hOffNew.toNat cv.hOff
    vOff := newOffset policy Config.vOffMax vOffNew.toNat cv.vOff }

/-- R173: `SCROLLPRESET color, hcmd, hoff, vcmd, voff`; the change bit is always true. -/
def execScrollPreset (color : BitVec 4) (hCmd : BitVec 2) (hOffNew : BitVec 3) (vCmd : BitVec 2)
    (vOffNew : BitVec 4) (s : State) : Host.Outcome State Fault Refusal :=
  finishCdg s (updateLast (.scrollPreset color hCmd hOffNew vCmd vOffNew))
    (scrolled s.cfg.scrollOob (.flat color) hCmd hOffNew vCmd vOffNew s.canvas, true)

/-- R174: `SCROLLCOPY hcmd, hoff, vcmd, voff`; the change bit is always true. -/
def execScrollCopy (hCmd : BitVec 2) (hOffNew : BitVec 3) (vCmd : BitVec 2) (vOffNew : BitVec 4) (s : State) :
    Host.Outcome State Fault Refusal :=
  finishCdg s (updateLast (.scrollCopy hCmd hOffNew vCmd vOffNew))
    (scrolled s.cfg.scrollOob .wrap hCmd hOffNew vCmd vOffNew s.canvas, true)

end Sys2Proof.Machine
end

