-- ==== Sys2Proof/Machine/Tiles.lean ====
section
/-! DEFINITION. 42_tile_block.md: TILE (code 6) and TILEXOR (code 38). Both write the 72 cells of one tile;
they differ in how the selected colour meets the cell. -/

namespace Sys2Proof.Machine

/-- R150, R151: the grid with each cell of the tile replaced by `put old colour`. -/
def paintTile (put : Cell → Cell → Cell) (color0 color1 : BitVec 4) (row : BitVec 5) (col : BitVec 6)
    (bits : Vector (BitVec 6) 12) (g : Grid) : Grid :=
  Grid.tabulate fun r c =>
    if h : inTile row col r.val c.val then
      put (g.cell r c) (tileColour color0 color1 bits ⟨r.val - tileY0 row, by omega⟩ (c.val - tileX0 col))
    else g.cell r c

/-- R150 `TileBlock(p)` at a position inside the canvas. -/
def tileBlock (color0 color1 : BitVec 4) (row : BitVec 5) (col : BitVec 6) (bits : Vector (BitVec 6) 12)
    (cv : Canvas) : Canvas × Bool :=
  ({ cv with grid := paintTile (fun _ v => v) color0 color1 row col bits cv.grid }, true)

/-- R151 `TileBlockXOR(p)` at a position inside the canvas. -/
def tileBlockXor (color0 color1 : BitVec 4) (row : BitVec 5) (col : BitVec 6) (bits : Vector (BitVec 6) 12)
    (cv : Canvas) : Canvas × Bool :=
  ({ cv with grid := paintTile (fun old v => old ^^^ v) color0 color1 row col bits cv.grid }, true)

/-- R150, R282, D9: a tile position outside the canvas: nothing is written and no change is reported (`skip`), or
the run ends with the named refusal (`refuse`). -/
def tileOutside (s : State) (last : LastCommand) : Host.Outcome State Fault Refusal :=
  match s.cfg.tileOob with
  | .skip => finishCdg s last (s.canvas, false)
  | .refuse => .refused .tileOutsideCanvas

/-- R150: `TILE c0, c1, row, col, b0, ..., b11`. -/
def execTile (color0 color1 : BitVec 4) (row : BitVec 5) (col : BitVec 6) (bits : Vector (BitVec 6) 12)
    (s : State) : Host.Outcome State Fault Refusal :=
  if tileInside row col then
    finishCdg s (updateLast (.tile color0 color1 row col bits)) (tileBlock color0 color1 row col bits s.canvas)
  else tileOutside s (updateLast (.tile color0 color1 row col bits))

/-- R151: `TILEXOR c0, c1, row, col, b0, ..., b11`. -/
def execTileXor (color0 color1 : BitVec 4) (row : BitVec 5) (col : BitVec 6) (bits : Vector (BitVec 6) 12)
    (s : State) : Host.Outcome State Fault Refusal :=
  if tileInside row col then
    finishCdg s (updateLast (.tileXor color0 color1 row col bits))
      (tileBlockXor color0 color1 row col bits s.canvas)
  else tileOutside s (updateLast (.tileXor color0 color1 row col bits))

end Sys2Proof.Machine
end

