-- ==== Sys2Proof/Machine/Dispatch.lean ====
section
/-! DEFINITION. R112: the dispatch of the nine instructions, one arm each. -/

namespace Sys2Proof.Machine

def exec (i : Instr) (s : State) : Host.Outcome State Fault Refusal :=
  match i with
  | .memPreset color rep => Sys2Proof.Machine.execMemPreset color rep s
  | .borderPreset color => Sys2Proof.Machine.execBorderPreset color s
  | .tile color0 color1 row col bits => Sys2Proof.Machine.execTile color0 color1 row col bits s
  | .scrollPreset color hCmd hOffNew vCmd vOffNew => Sys2Proof.Machine.execScrollPreset color hCmd hOffNew vCmd vOffNew s
  | .scrollCopy hCmd hOffNew vCmd vOffNew => Sys2Proof.Machine.execScrollCopy hCmd hOffNew vCmd vOffNew s
  | .defTransp => Sys2Proof.Machine.execDefTransp s
  | .colorsLow rgb => Sys2Proof.Machine.execColorsLow rgb s
  | .colorsHigh rgb => Sys2Proof.Machine.execColorsHigh rgb s
  | .tileXor color0 color1 row col bits => Sys2Proof.Machine.execTileXor color0 color1 row col bits s

end Sys2Proof.Machine
end

