-- ==== Sys2Proof/Machine/Consume.lean ====
section
/-! DEFINITION. 40_dispatch.md R110: the consume step, the block's only instruction-execution step, and the
effect of a packet that is none of the nine instructions. -/

namespace Sys2Proof.Machine

/-- R111: a non-CDG packet: no canvas write, `S.last` keeps its value (D7), change bit false. -/
def consumeNop (s : State) : Host.Outcome State Fault Refusal := .next (s.advance false)

/-- R97, R112, R113: an unused instruction code: no canvas write but `S.last <- None` (D7), change bit false. -/
def consumeUnused (s : State) : Host.Outcome State Fault Refusal := finishCdg s .none (s.canvas, false)

/-- R110 to R112: the effect of one record. Every record of 24 bytes has one (R98). -/
def consumeRecord (p : Record) (s : State) : Host.Outcome State Fault Refusal :=
  match decodeRecord p with
  | .ok i => exec i s
  | .error .nonCdg => consumeNop s
  | .error (.unusedCode _) => consumeUnused s
  | .error .partialRecord => consumeNop s

/-- R110 `Consume()`: packet `S.pkt_idx` is read and applied. It is defined when a stream is loaded and a packet
is left, which every caller checks (R110, I20); elsewhere the machine stops with a named fault. -/
def consume (s : State) : Host.Outcome State Fault Refusal :=
  if s.loaded = false then .fault .consumeUnloaded
  else if s.packets ≤ s.reader.pktIdx then .fault .readPastBuffer
  else consumeRecord (s.buf.record s.reader.pktIdx) s

/-- `n` packets consumed one after another (R116). -/
def consumeMany : Nat → State → Host.Outcome State Fault Refusal
  | 0, s => .next s
  | n + 1, s => andThen (consume s) (consumeMany n)

end Sys2Proof.Machine
end

