-- ==== Sys2Proof/Machine/Frame.lean ====
section
/-! DEFINITION. 45_frame_output.md: the crop window, the frame and its compositor. -/

namespace Sys2Proof.Machine

/-- R211 `Vis(x, y) = S.canvas[12 + S.vOff + y][6 + S.hOff + x]`. The sum of the offset is the spec's decision D6
(notes/assumptions/12.md). -/
def visible (cv : Canvas) (x : Fin 288) (y : Fin 192) : Cell :=
  cv.grid.cell ⟨Config.visRow0 + cv.vOff.val + y.val, by have := cv.vOff.isLt; simp; omega⟩
    ⟨Config.visCol0 + cv.hOff.val + x.val, by have := cv.hOff.isLt; simp; omega⟩

/-- A channel of a palette entry. -/
def Rgb.channel (c : Rgb) : Channel → Byte
  | .red => c.r
  | .green => c.g
  | .blue => c.b

/-- R213: one byte of the serialized palette. -/
def serialByte (pal : Vector Rgb 16) : PaletteByte → Byte
  | .channel i ch => pal[i.val].channel ch
  | .fixed v => v

/-- R212: the bitmap, row-major, top row first (D5): byte `y*288 + x` is pixel `(x, y)`, zero-extended. Irreducible,
so that no elaborator counts its 55296 bytes one by one. -/
@[irreducible] def bitmap (cv : Canvas) : List Byte :=
  (List.finRange Config.bitmapBytes).map fun i =>
    (visible cv ⟨i.val % 288, Nat.mod_lt _ (by decide)⟩
      ⟨i.val / 288, Nat.div_lt_of_lt_mul i.isLt⟩).setWidth 8

/-- R212 `Snapshot()`: the bitmap, then the serialized palette. -/
def snapshot (p : Params) (cv : Canvas) : Memory :=
  Memory.ofBytes (bitmap cv ++ p.paletteLayout.map (serialByte cv.pal))

/-- R214 `Composite(F)(x, y)` of a frame in the default palette layout: the RGB colour of a pixel, none where the
bytes are not there. -/
def composite (f : Memory) (x : Fin 288) (y : Fin 192) : Option Rgb :=
  match f.read (y.val * 288 + x.val) with
  | none => none
  | some i =>
    match f.read (Config.bitmapBytes + 3 * i.toNat), f.read (Config.bitmapBytes + 3 * i.toNat + 1),
        f.read (Config.bitmapBytes + 3 * i.toNat + 2) with
    | some r, some g, some b => some ⟨r, g, b⟩
    | _, _, _ => none

end Sys2Proof.Machine
end

