-- ==== Sys2Proof/Machine/Transactions.lean ====
section
/-! DEFINITION. 46_frame_index.md: the host transactions, cut into the pieces between two packets, and one
unit of work of the transaction in progress (`runPhase`). Machine/Atomic.lean says each transaction whole. -/

namespace Sys2Proof.Machine

/-! ## Queries (R260 to R263) -/

/-- R260 `TotalMs()`. -/
def totalMs (s : State) : Nat := pktToMs s.packets

/-- R261 `CurPosMs()`. -/
def curPosMs (s : State) : Nat := pktToMs s.reader.curIdx

/-- R261 `CurDurMs()`: the delta is converted (D16). -/
def curDurMs (s : State) : Nat := pktToMs (s.reader.nextIdx - s.reader.curIdx)

/-- R262: the final-frame position, -1 where it is undefined (D17). -/
def finalPosMs (s : State) : Int :=
  match s.reader.eos, s.reader.lastChange with
  | true, some k => pktToMs k
  | _, _ => -1

/-- R232: a query without a stream answers the neutral value (D22: notes/assumptions/17.md). -/
def answer (s : State) (loaded unloaded : Response) : State := s.reply (if s.loaded then loaded else unloaded)

/-! ## LOAD and UNLOAD (R230, R231) -/

/-- R230 `LOAD(bytes)`. -/
def loadStream (bytes : List Byte) (s : State) : State :=
  ((s.setStream true (Memory.ofBytes bytes)).rewound).setFrame none

/-- R231 `UNLOAD`. -/
def unloadStream (s : State) : State := ((s.setStream false Memory.empty).rewound).setFrame none

/-! ## MOVE (R240 to R245) -/

/-- R241, R242: the snapshot is taken, the current boundary moves, and the frame loop begins unchanged. -/
def enterFrameLoop (s : State) : State :=
  { s with
    frame := some (snapshot s.cfg s.canvas)
    reader := { s.reader with curIdx := s.reader.nextIdx }
    changed := false
    phase := .frameLoop }

/-- R240: the baseline is established: the boundary is set at the read cursor (D14). -/
def baselineDone (s : State) : State :=
  enterFrameLoop (s.setReader { s.reader with nextIdx := s.reader.pktIdx })

/-- R240: end of stream in the baseline loop. -/
def baselineEnd (s : State) : State := baselineDone (s.setReader { s.reader with eos := true })

/-- R233: MOVE begins (R232 where no stream is loaded; R240 on the first call; else R241). -/
def beginMove (s : State) : State :=
  if s.loaded = false then s.reply (.move none)
  else if s.reader.started = false then
    { s with reader := { s.reader with started := true }, changed := false, phase := .baseline }
  else enterFrameLoop s

/-- R245: the delivery of the current frame. A frame is there whenever a MOVE ends (R241). -/
def delivery (s : State) : Option Delivery := s.frame.map fun f => ⟨f, curPosMs s, curDurMs s⟩

/-- The transaction in progress ends with a response. -/
def finish (r : Response) (s : State) : State := ((s.setChanged false).setPhase .idle).reply r

/-- R243 STOP: the next boundary is the read cursor and the frame is ready. -/
def moveStop (s : State) : State :=
  let t := s.setReader { s.reader with nextIdx := s.reader.pktIdx }
  finish (.move (delivery t)) t

/-- R244 EOF: the result is true exactly when a packet of this loop changed something (D15). -/
def moveEof (s : State) : State :=
  let t := s.setReader
    { s.reader with eos := true, nextIdx := if s.changed then s.reader.pktIdx else s.reader.nextIdx }
  finish (.move (if t.reader.curIdx ≠ t.reader.nextIdx then delivery t else none)) t

/-- R242: the stop test, after a packet. -/
def stopTest (s : State) : Bool := s.changed && Config.minPackets ≤ s.reader.pktIdx - s.reader.curIdx

/-! ## SEEK (R250, R251) -/

/-- R250: SEEK begins: it fails with no state written, or rewinds if the target precedes the read cursor, and then
replays or fast-forwards. -/
def beginSeek (ms : Nat) (s : State) : State :=
  if s.loaded = false ∨ totalMs s < ms then s.reply (.seek false)
  else if msToPkt ms < s.reader.pktIdx then s.rewound.setPhase (.seekTo (msToPkt ms))
  else s.setPhase (.seekTo (msToPkt ms))

/-- R251: the boundaries are placed at the target; the frame is not written (D20). -/
def seekDone (target : Nat) (s : State) : State :=
  finish (.seek true) (s.setReader { s.reader with curIdx := target, nextIdx := target, started := true })

/-! ## One unit of work -/

/-- R233: a transaction reaches the idle block. -/
def begin (t : Transaction) (s : State) : State :=
  match t with
  | .load bytes => (loadStream bytes s).reply .done
  | .unload => (unloadStream s).reply .done
  | .move => beginMove s
  | .seek ms => beginSeek ms s
  | .totalMs => answer s (.ms (totalMs s)) (.ms 0)
  | .curPosMs => answer s (.ms (curPosMs s)) (.ms 0)
  | .curDurMs => answer s (.ms (curDurMs s)) (.ms 0)
  | .finalPosMs => answer s (.finalPos (finalPosMs s)) (.finalPos (-1))
  | .readFrame => answer s (.frame s.frame) (.frame none)

/-- What follows a consumed packet in the loop that consumed it: the exit of the baseline loop on a change (R240),
the stop of the frame loop (R242, R243), nothing in the loop of SEEK (R250). -/
def afterPacket (s : State) : State :=
  match s.phase with
  | .idle => s
  | .baseline => if s.changed then baselineDone s else s
  | .frameLoop => if stopTest s then moveStop s else s
  | .seekTo _ => s

/-- The loop of the transaction in progress goes on to consume a packet: it is not at its end test (R240, R242,
R250). -/
def wantsPacket (s : State) : Bool :=
  match s.phase with
  | .idle => false
  | .baseline => s.reader.pktIdx ≠ s.packets
  | .frameLoop => s.reader.pktIdx ≠ s.packets
  | .seekTo target => s.reader.pktIdx < target

/-- The loop of the transaction in progress at its end test (R240, R244, R251); an idle block takes the next
transaction the host issues, and stands still if there is none (R283). -/
def withoutPacket (s : State) : State :=
  match s.phase with
  | .idle =>
    match s.pending with
    | [] => s
    | t :: rest => begin t (s.setPending rest)
  | .baseline => baselineEnd s
  | .frameLoop => moveEof s
  | .seekTo target => seekDone target s

/-- One unit of work: one packet consumed and the loop's test after it, or one piece of a transaction that
consumes none. -/
def runPhase (s : State) : Host.Outcome State Fault Refusal :=
  if wantsPacket s then andThen (consume s) fun t => .next (afterPacket t) else .next (withoutPacket s)

/-- For `State.withFetchWord`: the phase in which the very next step consumes packet `S.pkt_idx`, once the buffer
holds it. A phase that does so already stays. -/
def fetchingPhase (s : State) : Phase :=
  match s.phase with
  | .idle => .frameLoop
  | .baseline => .baseline
  | .frameLoop => .frameLoop
  | .seekTo target => if s.reader.pktIdx < target then .seekTo target else .frameLoop

/-- For `State.withFetchWord`: a record stored as the packet that the next step consumes. If the buffer ended at a
later packet already, it stays that long. -/
def stageRecord (p : Record) (s : State) : State :=
  { s with loaded := true, buf := s.buf.storeRecord s.reader.pktIdx p, phase := fetchingPhase s }

end Sys2Proof.Machine
end

