-- ==== Sys2Proof/Machine/Step.lean ====
section
/-! DEFINITION. The step of the machine, and the host's way to place an instruction (notes/assumptions/18.md). -/

namespace Sys2Proof.Machine

/-- One unit of work of the block (R70, R110): at most one packet. -/
def step (s : State) : Host.Outcome State Fault Refusal := runPhase s

/-- The state with the instruction of a table word stored as the packet that the next step consumes. -/
def State.withFetchWord (s : State) (nbits w : Nat) : State := stageRecord (recordOfTableWord nbits w) s

end Sys2Proof.Machine
end

