-- ==== Sys2Proof/Machine/Atomic.lean ====
section
/-! DEFINITION. Each host transaction as ONE atomic operation (R70, R73), written as the pseudocode of
46_frame_index.md reads: the loops of MOVE (R240, R242) and SEEK (R250) run to their end. `step` does the
same work one packet at a time; that the two agree is an obligation. The loops recurse on the number of
packets still to consume. -/

namespace Sys2Proof.Machine

/-- R240: packets are consumed until the first whose change bit is true, or the end of the stream (`eos`). -/
def baselineLoop : Nat → State → Host.Outcome State Fault Refusal
  | 0, s => .next (s.setReader { s.reader with eos := true })
  | n + 1, s => andThen (consume (s.setChanged false)) fun t => if t.changed then .next t else baselineLoop n t

/-- R242 to R244: packets are consumed until the stop test holds (R243) or the stream ends (R244). -/
def frameLoop : Nat → State → Host.Outcome State Fault Refusal
  | 0, s => .next (moveEof s)
  | n + 1, s => andThen (consume s) fun t => if stopTest t then .next (moveStop t) else frameLoop n t

/-- R240: step 1 of MOVE, on the first call only: the baseline, then the boundary at the read cursor. -/
def moveBaseline (s : State) : Host.Outcome State Fault Refusal :=
  if s.reader.started then .next s
  else
    andThen (baselineLoop (s.packets - s.reader.pktIdx) (s.setReader { s.reader with started := true })) fun t =>
      .next (t.setReader { t.reader with nextIdx := t.reader.pktIdx })

/-- R240 to R245 `MOVE`. -/
def atomicMove (s : State) : Host.Outcome State Fault Refusal :=
  if s.loaded then
    andThen (moveBaseline s) fun t => frameLoop (t.packets - t.reader.pktIdx) (enterFrameLoop t)
  else .next (s.reply (.move none))

/-- R250, R251 `SEEK(ms)`: the failure test, the rewind, the replay or fast-forward, the boundaries. -/
def atomicSeek (ms : Nat) (s : State) : Host.Outcome State Fault Refusal :=
  if s.loaded then
    if totalMs s < ms then .next (s.reply (.seek false))
    else
      let target := msToPkt ms
      let start := if target < s.reader.pktIdx then s.rewound else s
      andThen (consumeMany (target - start.reader.pktIdx) start) fun t => .next (seekDone target t)
  else .next (s.reply (.seek false))

/-- R233: a whole transaction on the idle block. -/
def transact (t : Transaction) (s : State) : Host.Outcome State Fault Refusal :=
  match t with
  | .load bytes => .next ((loadStream bytes s).reply .done)
  | .unload => .next ((unloadStream s).reply .done)
  | .move => atomicMove s
  | .seek ms => atomicSeek ms s
  | .totalMs => .next (answer s (.ms (totalMs s)) (.ms 0))
  | .curPosMs => .next (answer s (.ms (curPosMs s)) (.ms 0))
  | .curDurMs => .next (answer s (.ms (curDurMs s)) (.ms 0))
  | .finalPosMs => .next (answer s (.finalPos (finalPosMs s)) (.finalPos (-1)))
  | .readFrame => .next (answer s (.frame s.frame) (.frame none))

/-- R70: the transactions of a list, one whole transaction after another. -/
def transactAll : List Transaction → State → Host.Outcome State Fault Refusal
  | [], s => .next s
  | t :: rest, s => andThen (transact t s) (transactAll rest)

end Sys2Proof.Machine
end

