-- ==== Sys2Proof/Machine/Consumer.lean ====
section
/-! DEFINITION. The pull-based consumer and the two host paths (R270, R271): how the host's events become
transactions and what it does with a response. The block never calls the consumer; these definitions read
no state but the response and whether a stream is loaded. -/

namespace Sys2Proof.Machine

/-- R270: the events of the consumer. -/
inductive ConsumerEvent where
  | needData
  | enoughData
  | seekData (positionMs : Nat)
  deriving DecidableEq, Repr

/-- R270: the transaction an event becomes; `enoughData` becomes none, since the block holds no pause state. -/
def ConsumerEvent.transaction : ConsumerEvent → Option Transaction
  | .needData => some .move
  | .enoughData => none
  | .seekData positionMs => some (.seek positionMs)

/-- R270: what the host does with a response. -/
inductive HostAction where
  | deliver (d : Delivery)
  | endOfStream
  | noData
  | returnBool (ok : Bool)
  | nothing
  deriving DecidableEq, Repr

/-- R270: the host's act on a response; `loaded` is whether a stream is loaded when the response is given. -/
def hostAction (loaded : Bool) : Response → HostAction
  | .move (some d) => .deliver d
  | .move none => if loaded then .endOfStream else .noData
  | .seek ok => .returnBool ok
  | .done => .nothing
  | .ms _ => .nothing
  | .finalPos _ => .nothing
  | .frame _ => .nothing

/-- R271: the two host paths. -/
inductive HostPath where
  | pull
  | control
  deriving DecidableEq, Repr

/-- R271: the transactions each path issues. The block does not check this (R287: either path may issue any
transaction), so nothing in the machine reads it. -/
def HostPath.issues : HostPath → Transaction → Bool
  | .pull, .load _ => false
  | .pull, .unload => false
  | .pull, .move => true
  | .pull, .seek _ => true
  | .pull, .totalMs => true
  | .pull, .curPosMs => true
  | .pull, .curDurMs => true
  | .pull, .finalPosMs => true
  | .pull, .readFrame => true
  | .control, .load _ => true
  | .control, .unload => true
  | .control, .move => false
  | .control, .seek _ => true
  | .control, .totalMs => false
  | .control, .curPosMs => false
  | .control, .curDurMs => false
  | .control, .finalPosMs => false
  | .control, .readFrame => false

end Sys2Proof.Machine
end

