-- ==== Sys2Proof/Safety.lean ====
section
/-! DEFINITION. What claims are stated in terms of: the invariant of the machine (the invariants that
10_state.md states, and how the phases of a transaction hold together), the replay property (R116, R252), what
a packet leaves alone (R110, R114), a safe run, and the operand layouts of 30_encoding.md over the bytes of a record. -/

namespace Sys2Proof.Machine

/-- R36: every channel is a 4-bit value times 17. -/
def Rgb.scaled (c : Rgb) : Prop := c.r.toNat % 17 = 0 ∧ c.g.toNat % 17 = 0 ∧ c.b.toNat % 17 = 0

/-- What holds of the transaction in progress at each place of its pseudocode. While the block is idle, the next
boundary is the read cursor, or the stream is at its end; and while no MOVE or SEEK has run since the last LOAD
(`started` false), Canvas, Reader and frame are as LOAD left them. -/
def PhaseOk (s : State) : Prop :=
  match s.phase with
  | .idle =>
    s.changed = false ∧ (s.reader.nextIdx = s.reader.pktIdx ∨ s.reader.pktIdx = s.packets) ∧
      (s.reader.started = false → s.reader = Reader.fresh ∧ s.canvas = Canvas.fresh ∧ s.frame = none)
  | .baseline =>
    s.loaded = true ∧ s.changed = false ∧ s.reader.started = true ∧ s.reader.curIdx = 0 ∧ s.reader.nextIdx = 0 ∧
      s.reader.lastChange = none ∧ s.frame = none
  | .frameLoop =>
    s.loaded = true ∧ s.reader.started = true ∧ s.reader.curIdx = s.reader.nextIdx ∧ s.frame.isSome = true ∧
      stopTest s = false
  | .seekTo target => s.loaded = true ∧ s.reader.pktIdx ≤ target ∧ target ≤ s.packets

/-- The invariant of the machine. -/
structure StateInv (s : State) : Prop where
  /-- The input buffer is in canonical form. -/
  bufWf : s.buf.wf = true
  /-- R47, R210: a frame is in canonical form and has exactly `CDG_IMAGE_SIZE` bytes. -/
  frameWf : ∀ f, s.frame = some f → f.wf = true ∧ f.size = s.cfg.imageSize
  /-- R43: `cur_idx <= next_idx <= pkt_idx <= N`. -/
  cursors : s.reader.curIdx ≤ s.reader.nextIdx ∧ s.reader.nextIdx ≤ s.reader.pktIdx ∧ s.reader.pktIdx ≤ s.packets
  /-- R44: the last change is a consumed packet. -/
  lastChange : ∀ k, s.reader.lastChange = some k → k < s.reader.pktIdx
  /-- R45, R252: at end of stream, every packet is consumed. -/
  eos : s.reader.eos = true → s.reader.pktIdx = s.packets
  /-- R36: palette channels are multiples of 17. -/
  palette : ∀ (i : Nat) (h : i < 16), (s.canvas.pal[i]).scaled
  /-- R39: after a MemoryPreset of colour `c`, every cell is `c`. -/
  lastPreset : ∀ c, s.canvas.last = .memoryPreset c → ∀ row col, s.canvas.grid.cell row col = c
  /-- R53, R231: with no stream, everything is fresh. -/
  unloaded : s.loaded = false →
    s.buf = Memory.empty ∧ s.reader = Reader.fresh ∧ s.canvas = Canvas.fresh ∧ s.frame = none
  phaseOk : PhaseOk s

/-- R116, R252: the Canvas and `last_change` are those of the first `pkt_idx` packets read from a fresh start. -/
def Replayed (s : State) : Prop :=
  ∃ u, consumeMany s.reader.pktIdx s.rewound = .next u ∧ u.canvas = s.canvas ∧
    u.reader.lastChange = s.reader.lastChange

/-- R110, R114: what no packet writes: parameters, stream (byte by byte), frame, boundaries, `eos`, `started`, and
the host's side. -/
def UntouchedByPacket (s t : State) : Prop :=
  t.cfg = s.cfg ∧ t.loaded = s.loaded ∧ t.buf.size = s.buf.size ∧ (∀ a, t.buf.read a = s.buf.read a) ∧
    t.frame = s.frame ∧ t.reader.curIdx = s.reader.curIdx ∧ t.reader.nextIdx = s.reader.nextIdx ∧
    t.reader.eos = s.reader.eos ∧ t.reader.started = s.reader.started ∧ t.pending = s.pending ∧
    t.phase = s.phase ∧ t.replies = s.replies

/-- R110: one packet consumed with change bit `ch`: the cursor advances by exactly 1, `last_change` names the packet
if it changed, the loop's `changed` takes the bit in, and nothing outside the Canvas is otherwise written. -/
def Consumed (s t : State) (ch : Bool) : Prop :=
  t.reader.pktIdx = s.reader.pktIdx + 1 ∧
    t.reader.lastChange = (if ch then some s.reader.pktIdx else s.reader.lastChange) ∧
    t.changed = (s.changed || ch) ∧ UntouchedByPacket s t

/-- Every cell, palette entry and offset is as before. -/
def PictureKept (a b : Canvas) : Prop :=
  (∀ r c, b.grid.cell r c = a.grid.cell r c) ∧ b.pal = a.pal ∧ b.hOff = a.hOff ∧ b.vOff = a.vOff

/-- `n` steps, stopping at the first fault or refusal. -/
def runSteps : Nat → State → Host.Outcome State Fault Refusal
  | 0, s => .next s
  | n + 1, s => andThen (step s) (runSteps n)

/-- A safe run: no step of it is a fault. -/
def SafeFor : Nat → State → Prop
  | 0, _ => True
  | n + 1, s =>
    match step s with
    | .next t => SafeFor n t
    | .fault _ => False
    | .refused _ => True

/-! ## The operand layouts of 30_encoding.md, over the bytes of a record -/

/-- R89: the operands of a TILE or TILEXOR record. -/
def TileOperands (p : Record) (color0 color1 : BitVec 4) (row : BitVec 5) (col : BitVec 6)
    (bits : Vector (BitVec 6) 12) : Prop :=
  color0.setWidth 8 = p[4] &&& 0x0F#8 ∧ color1.setWidth 8 = p[5] &&& 0x0F#8 ∧ row.setWidth 8 = p[6] &&& 0x1F#8 ∧
    col.setWidth 8 = p[7] &&& 0x3F#8 ∧ ∀ i : Fin 12, (bits[i]).setWidth 8 = p[8 + i.val] &&& 0x3F#8

/-- R90 (general knowledge G2: notes/assumptions/2.md): the direction codes and offsets of a scroll record. -/
def ScrollOperands (p : Record) (hCmd : BitVec 2) (hOffNew : BitVec 3) (vCmd : BitVec 2) (vOffNew : BitVec 4) : Prop :=
  hCmd.setWidth 8 = (p[5] >>> 4) &&& 0x03#8 ∧ hOffNew.setWidth 8 = p[5] &&& 0x07#8 ∧
    vCmd.setWidth 8 = (p[6] >>> 4) &&& 0x03#8 ∧ vOffNew.setWidth 8 = p[6] &&& 0x0F#8

/-- R92 (general knowledge G1: notes/assumptions/1.md): the eight colours of a colour record. -/
def ColourOperands (p : Record) (rgb : Vector Rgb12 8) : Prop :=
  ∀ k : Fin 8, (rgb[k]).r.setWidth 8 = (p[4 + 2 * k.val] >>> 2) &&& 0x0F#8 ∧
    (rgb[k]).g.setWidth 8 = ((p[4 + 2 * k.val] &&& 0x03#8) <<< 2) ||| ((p[5 + 2 * k.val] >>> 4) &&& 0x03#8) ∧
    (rgb[k]).b.setWidth 8 = p[5 + 2 * k.val] &&& 0x0F#8

end Sys2Proof.Machine
end

