-- ==== Sys2Proof/Certificates/Slice0/Obligations.lean ====
section
/-! DEFINITION. The statements for the provers, from the numbered rules of spec/. Where a statement rests on a
clause that the spec marks as its own decision, inference or general knowledge, its docstring names the
decision and the log entry. -/

section

open Sys2Proof Sys2Proof.Machine

/-! ## Reset and the invariant -/

/-- R53 power-on column. The unloaded power-on state, the offsets and `last` are the spec's decisions D22 and D24
(notes/assumptions/6.md). -/
def Obligations.PowerOnIsFresh : Prop :=
  State.reset.loaded = false ∧ State.reset.buf.size = 0 ∧ (∀ a, State.reset.buf.read a = none) ∧
    (∀ r c, State.reset.canvas.grid.cell r c = 0#4) ∧
    (∀ i : Fin 16, State.reset.canvas.pal[i] = ⟨0#8, 0#8, 0#8⟩) ∧
    State.reset.canvas.hOff.val = 0 ∧ State.reset.canvas.vOff.val = 0 ∧ State.reset.canvas.last = .none ∧
    State.reset.reader.pktIdx = 0 ∧ State.reset.reader.curIdx = 0 ∧ State.reset.reader.nextIdx = 0 ∧
    State.reset.reader.lastChange = none ∧ State.reset.reader.eos = false ∧ State.reset.reader.started = false ∧
    State.reset.frame = none

/-- The invariant holds at power-on. -/
def Obligations.PowerOnSatisfiesInv : Prop := StateInv State.reset ∧ Replayed State.reset

/-- Every step keeps the invariant: R35 to R37, R39, R43 to R45, R47 (marked derived or decisions in the spec) and how the
phases hold together (the model's own, notes/assumptions/4.md). -/
def Obligations.StepKeepsInv : Prop := ∀ s t : State, StateInv s → step s = .next t → StateInv t

/-- R116, R252: at every moment the Canvas and `last_change` are those of a direct sequential read of the packets
consumed so far, whatever SEEKs, MOVEs and LOADs came before: the source's idempotence law, marked derived in the spec. -/
def Obligations.StepKeepsReplayed : Prop := ∀ s t : State, Replayed s → step s = .next t → Replayed t

/-- R280: no exception and no trap. The one way a run ends is the refusal of R282 (decision D9), under the policy
`refuse` (notes/assumptions/8.md). -/
def Obligations.StepNeverFaults : Prop :=
  ∀ s : State, StateInv s →
    (∃ t, step s = .next t) ∨ (s.cfg.tileOob = .refuse ∧ step s = .refused .tileOutsideCanvas)

/-- R280, R285: from every state that meets the invariant, no run of any length, whatever the host asks, reaches a
fault. -/
def Obligations.EveryRunIsSafe : Prop := ∀ (n : Nat) (s : State), StateInv s → SafeFor n s

/-! ## Encoding -/

/-- Decoding an encoded instruction gives it back, every operand at every value of its field. -/
def Obligations.EncodeDecodeAgree : Prop :=
  ∀ i : Instr, decodeRecord (encode i) = .ok i ∧ decode (encode i).toList = .ok i

/-- R83: parity bytes are never read: records that agree elsewhere have the same effect on every state. -/
def Obligations.ParityBytesIgnored : Prop :=
  ∀ (p q : Record) (s : State),
    (∀ (j : Nat) (h : j < 24), j ≠ 2 → j ≠ 3 → j < 20 → p[j] = q[j]) → consumeRecord p s = consumeRecord q s

/-- R81, R82: bits 7:6 of bytes 0 and 1 are ignored, a packet is a CDG packet exactly where `byte0 & 0x3F = 0x09`, and
byte 1 is read only for CDG packets. -/
def Obligations.HeaderFieldsAreMasked : Prop :=
  (∀ (p : Record) (b : Byte), b &&& 0x3F#8 = p[0] &&& 0x3F#8 → decodeRecord (p.set 0 b) = decodeRecord p) ∧
  (∀ p : Record, decodeRecord p = .error .nonCdg ↔ p[0] &&& 0x3F#8 ≠ 0x09#8) ∧
  (∀ (p : Record) (b : Byte), b &&& 0x3F#8 = p[1] &&& 0x3F#8 → decodeRecord (p.set 1 b) = decodeRecord p) ∧
  ∀ (p : Record) (b : Byte), p[0] &&& 0x3F#8 ≠ 0x09#8 → decodeRecord (p.set 1 b) = decodeRecord p

/-- R86 to R93, I11 to I13. No record outside bits 5:0 of bytes 0, 1 and 4..19 has an effect, and a record of each of the
nine codes decodes to its operands, which are exactly the masked fields of the code's layout: so no other bit and no
other data byte of such a record is read. The layouts of scroll and colour packets are the spec's general knowledge
G2 and G1 (notes/assumptions/2.md, 1.md). -/
def Obligations.OnlySixBitsOfEachByteMatter : Prop :=
  (∀ p q : Record,
    (∀ (j : Nat) (h : j < 24), j ≠ 2 → j ≠ 3 → j < 20 → p[j] &&& 0x3F#8 = q[j] &&& 0x3F#8) →
      decodeRecord p = decodeRecord q) ∧
  ∀ p : Record, p[0] &&& 0x3F#8 = 0x09#8 →
    (p[1] &&& 0x3F#8 = 1#8 → ∃ color rep, decodeRecord p = .ok (.memPreset color rep) ∧
      color.setWidth 8 = p[4] &&& 0x0F#8 ∧ rep.setWidth 8 = p[5] &&& 0x0F#8) ∧
    (p[1] &&& 0x3F#8 = 2#8 → ∃ color, decodeRecord p = .ok (.borderPreset color) ∧
      color.setWidth 8 = p[4] &&& 0x0F#8) ∧
    (p[1] &&& 0x3F#8 = 6#8 → ∃ color0 color1 row col bits, decodeRecord p = .ok (.tile color0 color1 row col bits) ∧
      TileOperands p color0 color1 row col bits) ∧
    (p[1] &&& 0x3F#8 = 20#8 → ∃ color hCmd hOffNew vCmd vOffNew,
      decodeRecord p = .ok (.scrollPreset color hCmd hOffNew vCmd vOffNew) ∧
      color.setWidth 8 = p[4] &&& 0x0F#8 ∧ ScrollOperands p hCmd hOffNew vCmd vOffNew) ∧
    (p[1] &&& 0x3F#8 = 24#8 → ∃ hCmd hOffNew vCmd vOffNew,
      decodeRecord p = .ok (.scrollCopy hCmd hOffNew vCmd vOffNew) ∧ ScrollOperands p hCmd hOffNew vCmd vOffNew) ∧
    (p[1] &&& 0x3F#8 = 28#8 → decodeRecord p = .ok .defTransp) ∧
    (p[1] &&& 0x3F#8 = 30#8 → ∃ rgb, decodeRecord p = .ok (.colorsLow rgb) ∧ ColourOperands p rgb) ∧
    (p[1] &&& 0x3F#8 = 31#8 → ∃ rgb, decodeRecord p = .ok (.colorsHigh rgb) ∧ ColourOperands p rgb) ∧
    (p[1] &&& 0x3F#8 = 38#8 → ∃ color0 color1 row col bits,
      decodeRecord p = .ok (.tileXor color0 color1 row col bits) ∧ TileOperands p color0 color1 row col bits)

/-- R98: every record decodes to one of the nine or to a no-op; none is illegal, none stops the machine (a tile
outside the canvas under the non-default policy of R282 apart), and code 28 is DefineTransparent, a no-op. -/
def Obligations.EveryRecordHasAnEffect : Prop :=
  (∀ p : Record, (∃ i, decodeRecord p = .ok i) ∨ decodeRecord p = .error .nonCdg ∨
    ∃ code, decodeRecord p = .error (.unusedCode code)) ∧
  (∀ p : Record, p[0] &&& 0x3F#8 = 0x09#8 → p[1] &&& 0x3F#8 = 28#8 → decodeRecord p = .ok .defTransp ∧
    ∀ s, ∃ t, consumeRecord p s = .next t ∧ PictureKept s.canvas t.canvas ∧ Consumed s t false) ∧
  ∀ (p : Record) (s : State), s.cfg.tileOob = .skip → ∃ t, consumeRecord p s = .next t

/-- R95 with the header word of R85 (D27, notes/assumptions/13.md): a record decodes to an instruction exactly where
its header word matches that instruction's row under mask 0x3F3F. -/
def Obligations.OpcodeMapIsExact : Prop :=
  (∀ (p : Record) (i : Instr), decodeRecord p = .ok i →
    headerWord p &&& 0x3F3F#16 = 0x0900#16 + i.code.setWidth 16) ∧
  ∀ p : Record, (∃ i, decodeRecord p = .ok i) ↔
    headerWord p &&& 0x3F3F#16 ∈ [0x0901#16, 0x0902#16, 0x0906#16, 0x0914#16, 0x0918#16, 0x091C#16, 0x091E#16,
      0x091F#16, 0x0926#16]

/-- Words of 95_test_vectors.md §2.1 (V-E1, V-E3 to V-E6, V-E9, V-E10, V-E12, V-E13), one for each instruction; the
scroll and colour fields are the spec's general knowledge G2, G1 (notes/assumptions/2.md, 1.md). -/
def Obligations.SpecWordsDecode : Prop :=
  decodeRecord #v[0x09, 0x01, 0, 0, 0x01, 0, 0, 0, 0, 0, 0, 0, 0, 0, 0, 0, 0, 0, 0, 0, 0, 0, 0, 0] =
      .ok (.memPreset 1#4 0#4) ∧
    decodeRecord #v[0x09, 0x02, 0, 0, 0x04, 0, 0, 0, 0, 0, 0, 0, 0, 0, 0, 0, 0, 0, 0, 0, 0, 0, 0, 0] =
      .ok (.borderPreset 4#4) ∧
    decodeRecord #v[0x09, 0x06, 0, 0, 0, 0x02, 0x01, 0x01, 0x3F, 0x3F, 0x3F, 0x3F, 0x3F, 0x3F, 0x3F, 0x3F, 0x3F, 0x3F,
        0x3F, 0x3F, 0, 0, 0, 0] = .ok (.tile 0#4 2#4 1#5 1#6 (Vector.replicate 12 0x3F#6)) ∧
    decodeRecord #v[0x09, 0x26, 0, 0, 0, 0x03, 0x01, 0x01, 0x3F, 0x3F, 0x3F, 0x3F, 0x3F, 0x3F, 0x3F, 0x3F, 0x3F, 0x3F,
        0x3F, 0x3F, 0, 0, 0, 0] = .ok (.tileXor 0#4 3#4 1#5 1#6 (Vector.replicate 12 0x3F#6)) ∧
    decodeRecord #v[0x09, 0x14, 0, 0, 0x07, 0x10, 0, 0, 0, 0, 0, 0, 0, 0, 0, 0, 0, 0, 0, 0, 0, 0, 0, 0] =
      .ok (.scrollPreset 7#4 1#2 0#3 0#2 0#4) ∧
    decodeRecord #v[0x09, 0x18, 0, 0, 0, 0x20, 0x20, 0, 0, 0, 0, 0, 0, 0, 0, 0, 0, 0, 0, 0, 0, 0, 0, 0] =
      .ok (.scrollCopy 2#2 0#3 2#2 0#4) ∧
    decodeRecord #v[0x09, 0x1C, 0, 0, 0, 0, 0, 0, 0, 0, 0, 0, 0, 0, 0, 0, 0, 0, 0, 0, 0, 0, 0, 0] =
      .ok .defTransp ∧
    decodeRecord #v[0x09, 0x1E, 0, 0, 0x16, 0x23, 0, 0, 0, 0, 0, 0, 0, 0, 0, 0, 0, 0, 0, 0, 0, 0, 0, 0] =
      .ok (.colorsLow #v[⟨5, 10, 3⟩, ⟨0, 0, 0⟩, ⟨0, 0, 0⟩, ⟨0, 0, 0⟩, ⟨0, 0, 0⟩, ⟨0, 0, 0⟩, ⟨0, 0, 0⟩, ⟨0, 0, 0⟩]) ∧
    decodeRecord #v[0x09, 0x1F, 0, 0, 0, 0, 0, 0, 0, 0, 0, 0, 0, 0, 0, 0, 0, 0, 0x3F, 0x3F, 0, 0, 0, 0] =
      .ok (.colorsHigh #v[⟨0, 0, 0⟩, ⟨0, 0, 0⟩, ⟨0, 0, 0⟩, ⟨0, 0, 0⟩, ⟨0, 0, 0⟩, ⟨0, 0, 0⟩, ⟨0, 0, 0⟩, ⟨15, 15, 15⟩])

/-- R100, D27: an assembled line whose operands fit their fields is the encoding of its instruction, or the records of its
pseudo-instruction (NOP, RAW, PAD, TILE1, TILEXOR1); a line with an operand too wide for its field, or not as many as
its syntax lists, is an assembler error. A row operand of TILE and its kin is a whole byte, written as it stands, of
which the instruction reads six bits (DEDUCED, notes/assumptions/13.md). -/
def Obligations.AssemblerEncodes : Prop :=
  (∀ color rep : Nat, color < 16 → rep < 16 →
    (SrcLine.memPreset color rep).assemble = some [encode (.memPreset (.ofNat 4 color) (.ofNat 4 rep))]) ∧
  (∀ color : Nat, color < 16 → (SrcLine.borderPreset color).assemble = some [encode (.borderPreset (.ofNat 4 color))]) ∧
  (∀ color hcmd hoff vcmd voff : Nat, color < 16 → hcmd < 4 → hoff < 8 → vcmd < 4 → voff < 16 →
    (SrcLine.scrollPreset color hcmd hoff vcmd voff).assemble =
      some [encode (.scrollPreset (.ofNat 4 color) (.ofNat 2 hcmd) (.ofNat 3 hoff) (.ofNat 2 vcmd) (.ofNat 4 voff))]) ∧
  (∀ hcmd hoff vcmd voff : Nat, hcmd < 4 → hoff < 8 → vcmd < 4 → voff < 16 →
    (SrcLine.scrollCopy hcmd hoff vcmd voff).assemble =
      some [encode (.scrollCopy (.ofNat 2 hcmd) (.ofNat 3 hoff) (.ofNat 2 vcmd) (.ofNat 4 voff))]) ∧
  (SrcLine.defTransp).assemble = some [encode .defTransp] ∧
  (∀ (c0 c1 row col : Nat) (bits : Vector (BitVec 6) 12), c0 < 16 → c1 < 16 → row < 32 → col < 64 →
    (SrcLine.tile c0 c1 row col (bits.toList.map BitVec.toNat)).assemble =
      some [encode (.tile (.ofNat 4 c0) (.ofNat 4 c1) (.ofNat 5 row) (.ofNat 6 col) bits)] ∧
    (SrcLine.tileXor c0 c1 row col (bits.toList.map BitVec.toNat)).assemble =
      some [encode (.tileXor (.ofNat 4 c0) (.ofNat 4 c1) (.ofNat 5 row) (.ofNat 6 col) bits)]) ∧
  (∀ rgb : Vector Rgb12 8,
    (SrcLine.colorsLow (rgb.toList.map fun c => c.r.toNat * 256 + c.g.toNat * 16 + c.b.toNat)).assemble =
      some [encode (.colorsLow rgb)] ∧
    (SrcLine.colorsHigh (rgb.toList.map fun c => c.r.toNat * 256 + c.g.toNat * 16 + c.b.toNat)).assemble =
      some [encode (.colorsHigh rgb)]) ∧
  (∀ (c0 c1 row col : Nat) (rows : List Nat), c0 < 16 → c1 < 16 → row < 32 → col < 64 → rows.length = 12 →
    (∀ b ∈ rows, b < 256) →
    ∃ p q : Record, (SrcLine.tile c0 c1 row col rows).assemble = some [p] ∧
      (SrcLine.tileXor c0 c1 row col rows).assemble = some [q] ∧
      p.toList.map BitVec.toNat = [0x09, 0x06, 0, 0, c0, c1, row, col] ++ rows ++ [0, 0, 0, 0] ∧
      q.toList.map BitVec.toNat = [0x09, 0x26, 0, 0, c0, c1, row, col] ++ rows ++ [0, 0, 0, 0] ∧
      decodeRecord p = .ok (.tile (.ofNat 4 c0) (.ofNat 4 c1) (.ofNat 5 row) (.ofNat 6 col)
        (Vector.ofFn fun i => .ofNat 6 (rows.getD i.val 0))) ∧
      decodeRecord q = .ok (.tileXor (.ofNat 4 c0) (.ofNat 4 c1) (.ofNat 5 row) (.ofNat 6 col)
        (Vector.ofFn fun i => .ofNat 6 (rows.getD i.val 0)))) ∧
  (SrcLine.nop).assemble = some [Vector.replicate 24 0#8] ∧
  (∀ n : Nat, (SrcLine.pad n).assemble = some (List.replicate n (Vector.replicate 24 0#8))) ∧
  (∀ p : Record, (SrcLine.raw (p.toList.map BitVec.toNat)).assemble = some [p]) ∧
  (∀ c0 c1 row col b : Nat,
    (SrcLine.tile1 c0 c1 row col b).assemble = (SrcLine.tile c0 c1 row col (List.replicate 12 b)).assemble ∧
    (SrcLine.tileXor1 c0 c1 row col b).assemble = (SrcLine.tileXor c0 c1 row col (List.replicate 12 b)).assemble) ∧
  ∀ l : SrcLine, l.assemble = none ↔
    match l with
    | .nop => False
    | .memPreset color rep => 16 ≤ color ∨ 16 ≤ rep
    | .borderPreset color => 16 ≤ color
    | .tile c0 c1 row col rows =>
      16 ≤ c0 ∨ 16 ≤ c1 ∨ 32 ≤ row ∨ 64 ≤ col ∨ rows.length ≠ 12 ∨ ∃ b ∈ rows, 256 ≤ b
    | .tileXor c0 c1 row col rows =>
      16 ≤ c0 ∨ 16 ≤ c1 ∨ 32 ≤ row ∨ 64 ≤ col ∨ rows.length ≠ 12 ∨ ∃ b ∈ rows, 256 ≤ b
    | .scrollPreset color hcmd hoff vcmd voff => 16 ≤ color ∨ 4 ≤ hcmd ∨ 8 ≤ hoff ∨ 4 ≤ vcmd ∨ 16 ≤ voff
    | .scrollCopy hcmd hoff vcmd voff => 4 ≤ hcmd ∨ 8 ≤ hoff ∨ 4 ≤ vcmd ∨ 16 ≤ voff
    | .defTransp => False
    | .colorsLow rgb => rgb.length ≠ 8 ∨ ∃ c ∈ rgb, 4096 ≤ c
    | .colorsHigh rgb => rgb.length ≠ 8 ∨ ∃ c ∈ rgb, 4096 ≤ c
    | .raw bytes => bytes.length ≠ 24 ∨ ∃ b ∈ bytes, 256 ≤ b
    | .pad _ => False
    | .tile1 c0 c1 row col b => 16 ≤ c0 ∨ 16 ≤ c1 ∨ 32 ≤ row ∨ 64 ≤ col ∨ 256 ≤ b
    | .tileXor1 c0 c1 row col b => 16 ≤ c0 ∨ 16 ≤ c1 ∨ 32 ≤ row ∨ 64 ≤ col ∨ 256 ≤ b

/-! ## The step and the consume step -/

/-- Where the transaction in progress wants a packet and the 24 bytes at the read cursor decode to an instruction,
the step is `exec` of that instruction and then the loop's test (`afterPacket`); where they decode to no
instruction, it is the no-op effect of R111 or of R97 and then the same test. -/
def Obligations.StepRunsDecodedInstruction : Prop :=
  ∀ (s : State) (bs : List Byte), s.loaded = true → wantsPacket s = true →
    s.buf.readBytes (24 * s.reader.pktIdx) 24 = some bs →
      (∀ i, decode bs = .ok i → step s = andThen (exec i s) fun t => .next (afterPacket t)) ∧
      (decode bs = .error .nonCdg → step s = andThen (consumeNop s) fun t => .next (afterPacket t)) ∧
      ∀ code, decode bs = .error (.unusedCode code) →
        step s = andThen (consumeUnused s) fun t => .next (afterPacket t)

/-- The interface's placed word is run by the very next step, in every state whose buffer is in canonical form
(notes/assumptions/18.md). -/
def Obligations.PlacedWordRunsNext : Prop :=
  ∀ (s : State) (nbits w : Nat) (i : Instr), s.buf.wf = true → decodeTableWord nbits w = some i →
    step (s.withFetchWord nbits w) = andThen (exec i (s.withFetchWord nbits w)) fun t => .next (afterPacket t)

/-- R111 (a non-CDG packet) and R97, R112, R113 (an unused instruction code): nothing is written but the cursor, and
`last <- None` for the unused code, by decision D7 (notes/assumptions/7.md). -/
def Obligations.PacketsOutsideTableAreNops : Prop :=
  ∀ (p : Record) (s : State),
    (p[0] &&& 0x3F#8 ≠ 0x09#8 → ∃ t, consumeRecord p s = .next t ∧ t.canvas = s.canvas ∧ Consumed s t false) ∧
    (p[0] &&& 0x3F#8 = 0x09#8 → (p[1] &&& 0x3F#8).toNat ∉ [1, 2, 6, 20, 24, 28, 30, 31, 38] →
      ∃ t, consumeRecord p s = .next t ∧ t.canvas = { s.canvas with last := .none } ∧ Consumed s t false)

/-- R110: Consume is defined where a stream is loaded and a packet is left (but for the refusal of R282 under the policy
`refuse`); it applies the record at the cursor; the cursor advances by exactly 1 whatever the packet is, a change is
recorded as `last_change`, and nothing outside the Canvas is otherwise written. -/
def Obligations.ConsumeAdvancesByOne : Prop :=
  ∀ s : State, s.loaded = true → s.reader.pktIdx < s.packets →
    (s.cfg.tileOob = .skip → ∃ t, consume s = .next t) ∧
    ∀ t, consume s = .next t →
      ∃ ch, Consumed s t ch ∧ consumeRecord (s.buf.record s.reader.pktIdx) s = .next t

/-- R110, R113, R114: whatever instruction is executed, `last` becomes the colour of a MemoryPreset and `None` for every
other code (decision D7, notes/assumptions/7.md), and outside the Canvas only the bookkeeping of R110 is written. -/
def Obligations.EveryInstructionUpdatesLast : Prop :=
  ∀ (i : Instr) (s t : State), exec i s = .next t →
    t.canvas.last = (match i with
      | .memPreset color _ => .memoryPreset color
      | _ => .none) ∧
    ∃ ch, Consumed s t ch

/-! ## Presets -/

/-- R130, not a deduplicated repeat: the whole canvas is filled and a change is reported. "Identical" as same colour is
decision D8, `last` is decision D7 (notes/assumptions/7.md). -/
def Obligations.MemPresetFillsCanvas : Prop :=
  ∀ (color rep : BitVec 4) (s : State), rep = 0#4 ∨ s.canvas.last ≠ .memoryPreset color →
    ∃ t, exec (.memPreset color rep) s = .next t ∧ (∀ r c, t.canvas.grid.cell r c = color) ∧
      t.canvas.pal = s.canvas.pal ∧ t.canvas.hOff = s.canvas.hOff ∧ t.canvas.vOff = s.canvas.vOff ∧
      t.canvas.last = .memoryPreset color ∧ Consumed s t true

/-- R130, a deduplicated repeat: no write, no change. D7, D8 (notes/assumptions/7.md). -/
def Obligations.MemPresetRepeatIsDeduplicated : Prop :=
  ∀ (color rep : BitVec 4) (s : State), rep ≠ 0#4 → s.canvas.last = .memoryPreset color →
    ∃ t, exec (.memPreset color rep) s = .next t ∧ t.canvas = s.canvas ∧ Consumed s t false

/-- R131: the packets with code 2 are BORDERPRESET of the low nibble of byte 4; the four border bands are filled, the
interior is not written, and a change is always reported. -/
def Obligations.BorderPresetFillsBands : Prop :=
  (∀ p : Record, p[0] &&& 0x3F#8 = 0x09#8 → p[1] &&& 0x3F#8 = 0x02#8 →
    ∃ color, decodeRecord p = .ok (.borderPreset color) ∧ color.setWidth 8 = p[4] &&& 0x0F#8) ∧
  ∀ (color : BitVec 4) (s : State),
    ∃ t, exec (.borderPreset color) s = .next t ∧ Consumed s t true ∧
      (∀ (r : Fin 216) (c : Fin 300),
        t.canvas.grid.cell r c =
          if r.val < 12 ∨ 216 - s.cfg.borderBottom.rows ≤ r.val ∨ c.val < 6 ∨ 294 ≤ c.val then color
          else s.canvas.grid.cell r c) ∧
      t.canvas.pal = s.canvas.pal ∧ t.canvas.hOff = s.canvas.hOff ∧ t.canvas.vOff = s.canvas.vOff

/-- R132: the dedup law, marked derived in the spec. It rests on decisions D7 and D8 (notes/assumptions/7.md). -/
def Obligations.DedupLaw : Prop :=
  (∀ (color rep1 rep2 : BitVec 4) (s t : State), exec (.memPreset color rep1) s = .next t → rep2 ≠ 0#4 →
    ∃ u, exec (.memPreset color rep2) t = .next u ∧ u.canvas = t.canvas ∧ Consumed t u false) ∧
  ∀ (color1 color2 rep1 rep2 : BitVec 4) (s t : State), s.canvas.last = .none → color1 ≠ color2 →
    exec (.memPreset color1 rep1) s = .next t →
      Consumed s t true ∧ ∃ u, exec (.memPreset color2 rep2) t = .next u ∧ Consumed t u true

/-! ## Tiles -/

/-- R150 inside the canvas: the 72 cells of the tile take the selected colours, bit 5 of a row byte for column 0 to bit
0 for column 5, every other cell is unchanged, and a change is always reported. `last` is decision D7
(notes/assumptions/7.md). -/
def Obligations.TileWritesItsCells : Prop :=
  ∀ (color0 color1 : BitVec 4) (row : BitVec 5) (col : BitVec 6) (bits : Vector (BitVec 6) 12) (s : State),
    row.toNat < 18 → col.toNat < 50 →
    ∃ t, exec (.tile color0 color1 row col bits) s = .next t ∧ Consumed s t true ∧
      (∀ (i : Fin 12) (j : Fin 6) (r : Fin 216) (c : Fin 300),
        r.val = row.toNat * 12 + i.val → c.val = col.toNat * 6 + j.val →
          t.canvas.grid.cell r c = if (bits[i]).getLsbD (5 - j.val) then color1 else color0) ∧
      (∀ (r : Fin 216) (c : Fin 300),
        (r.val < row.toNat * 12 ∨ row.toNat * 12 + 12 ≤ r.val ∨ c.val < col.toNat * 6 ∨ col.toNat * 6 + 6 ≤ c.val) →
          t.canvas.grid.cell r c = s.canvas.grid.cell r c) ∧
      t.canvas.pal = s.canvas.pal ∧ t.canvas.hOff = s.canvas.hOff ∧ t.canvas.vOff = s.canvas.vOff ∧
      t.canvas.last = .none

/-- R151 inside the canvas: the selected colours are XORed into the 72 cells. `last` is decision D7
(notes/assumptions/7.md). -/
def Obligations.TileXorWritesItsCells : Prop :=
  ∀ (color0 color1 : BitVec 4) (row : BitVec 5) (col : BitVec 6) (bits : Vector (BitVec 6) 12) (s : State),
    row.toNat < 18 → col.toNat < 50 →
    ∃ t, exec (.tileXor color0 color1 row col bits) s = .next t ∧ Consumed s t true ∧
      (∀ (i : Fin 12) (j : Fin 6) (r : Fin 216) (c : Fin 300),
        r.val = row.toNat * 12 + i.val → c.val = col.toNat * 6 + j.val →
          t.canvas.grid.cell r c =
            s.canvas.grid.cell r c ^^^ (if (bits[i]).getLsbD (5 - j.val) then color1 else color0)) ∧
      (∀ (r : Fin 216) (c : Fin 300),
        (r.val < row.toNat * 12 ∨ row.toNat * 12 + 12 ≤ r.val ∨ c.val < col.toNat * 6 ∨ col.toNat * 6 + 6 ≤ c.val) →
          t.canvas.grid.cell r c = s.canvas.grid.cell r c) ∧
      t.canvas.pal = s.canvas.pal ∧ t.canvas.hOff = s.canvas.hOff ∧ t.canvas.vOff = s.canvas.vOff ∧
      t.canvas.last = .none

/-- R150, R151 outside the canvas: decision D9 (notes/assumptions/8.md): `skip` writes no cell and reports no change,
`refuse` ends the run with the refusal of R282. -/
def Obligations.TileOutsideCanvas : Prop :=
  ∀ (color0 color1 : BitVec 4) (row : BitVec 5) (col : BitVec 6) (bits : Vector (BitVec 6) 12) (s : State),
    18 ≤ row.toNat ∨ 50 ≤ col.toNat →
    (s.cfg.tileOob = .skip →
      (∃ t, exec (.tile color0 color1 row col bits) s = .next t ∧ t.canvas = { s.canvas with last := .none } ∧
        Consumed s t false) ∧
      ∃ t, exec (.tileXor color0 color1 row col bits) s = .next t ∧ t.canvas = { s.canvas with last := .none } ∧
        Consumed s t false) ∧
    (s.cfg.tileOob = .refuse →
      exec (.tile color0 color1 row col bits) s = .refused .tileOutsideCanvas ∧
      exec (.tileXor color0 color1 row col bits) s = .refused .tileOutsideCanvas)

/-- R152, marked derived in the spec: the same TILEXOR packet twice restores every cell, and reports a change twice where it is inside the canvas. -/
def Obligations.TileXorIsSelfInverse : Prop :=
  ∀ (color0 color1 : BitVec 4) (row : BitVec 5) (col : BitVec 6) (bits : Vector (BitVec 6) 12) (s t : State),
    exec (.tileXor color0 color1 row col bits) s = .next t →
    ∃ u, exec (.tileXor color0 color1 row col bits) t = .next u ∧ PictureKept s.canvas u.canvas ∧
      (row.toNat < 18 → col.toNat < 50 → Consumed s t true ∧ Consumed t u true)

/-! ## Scrolls -/

/-- R170 to R173: SCROLLPRESET moves every cell from its fixed-distance source and fills what is vacated with the
colour; the change bit is always true. The direction of codes 1 and 2 is the spec's general knowledge G3, code 3,
the area and the order are D10, D12, D13, `last` is D7 (notes/assumptions/3.md, 10.md, 7.md). -/
def Obligations.ScrollPresetMovesCells : Prop :=
  ∀ (color : BitVec 4) (hCmd : BitVec 2) (hOffNew : BitVec 3) (vCmd : BitVec 2) (vOffNew : BitVec 4) (s : State)
    (dh dv : Int),
    dh = (if hCmd = 1#2 then -6 else if hCmd = 2#2 then 6 else 0) →
    dv = (if vCmd = 1#2 then -12 else if vCmd = 2#2 then 12 else 0) →
    ∃ t, exec (.scrollPreset color hCmd hOffNew vCmd vOffNew) s = .next t ∧ Consumed s t true ∧
      (∀ (r r' : Fin 216) (c c' : Fin 300), (r'.val : Int) = r.val + dv → (c'.val : Int) = c.val + dh →
        t.canvas.grid.cell r c = s.canvas.grid.cell r' c') ∧
      (∀ (r : Fin 216) (c : Fin 300),
        ((r.val : Int) + dv < 0 ∨ 216 ≤ (r.val : Int) + dv ∨ (c.val : Int) + dh < 0 ∨ 300 ≤ (c.val : Int) + dh) →
          t.canvas.grid.cell r c = color) ∧
      t.canvas.pal = s.canvas.pal ∧ t.canvas.last = .none

/-- R170, R174: SCROLLCOPY rotates the canvas; the change bit is always true. Decisions as for SCROLLPRESET
(notes/assumptions/3.md, 10.md, 7.md). -/
def Obligations.ScrollCopyRotatesCells : Prop :=
  ∀ (hCmd : BitVec 2) (hOffNew : BitVec 3) (vCmd : BitVec 2) (vOffNew : BitVec 4) (s : State) (dh dv : Int),
    dh = (if hCmd = 1#2 then -6 else if hCmd = 2#2 then 6 else 0) →
    dv = (if vCmd = 1#2 then -12 else if vCmd = 2#2 then 12 else 0) →
    ∃ t, exec (.scrollCopy hCmd hOffNew vCmd vOffNew) s = .next t ∧ Consumed s t true ∧
      (∀ (r r' : Fin 216) (c c' : Fin 300), (r'.val : Int) = ((r.val : Int) + dv) % 216 →
        (c'.val : Int) = ((c.val : Int) + dh) % 300 → t.canvas.grid.cell r c = s.canvas.grid.cell r' c') ∧
      t.canvas.pal = s.canvas.pal ∧ t.canvas.last = .none

/-- R172: every scroll packet sets each offset from its field where the field is in range; beyond it, `keep` leaves the
offset (decision D11) and the alternative `clamp` takes the maximum (notes/assumptions/9.md). -/
def Obligations.ScrollSetsOffsets : Prop :=
  ∀ (color : BitVec 4) (hCmd : BitVec 2) (hOffNew : BitVec 3) (vCmd : BitVec 2) (vOffNew : BitVec 4) (s t : State),
    (exec (.scrollPreset color hCmd hOffNew vCmd vOffNew) s = .next t ∨
      exec (.scrollCopy hCmd hOffNew vCmd vOffNew) s = .next t) →
    (t.canvas.hOff.val =
      if hOffNew.toNat ≤ 5 then hOffNew.toNat else if s.cfg.scrollOob = .keep then s.canvas.hOff.val else 5) ∧
    (t.canvas.vOff.val =
      if vOffNew.toNat ≤ 11 then vOffNew.toNat else if s.cfg.scrollOob = .keep then s.canvas.vOff.val else 11)

/-- R171, marked derived in the spec: the order of the two shifts changes no result (D13, notes/assumptions/10.md). -/
def Obligations.ShiftsCommute : Prop :=
  ∀ (hCmd vCmd : BitVec 2) (fill : Fill) (g : Grid),
    vShift vCmd fill (hShift hCmd fill g) = hShift hCmd fill (vShift vCmd fill g)

/-- R175, marked derived in the spec: SCROLLCOPY right then left, or down then up, leaves the canvas cells as they were; fifty right shifts, or
eighteen down shifts, are the identity on the canvas. -/
def Obligations.ScrollCopyTurnsBack : Prop :=
  (∀ (h h' : BitVec 3) (v v' : BitVec 4) (s t u : State), exec (.scrollCopy 1#2 h 0#2 v) s = .next t →
    exec (.scrollCopy 2#2 h' 0#2 v') t = .next u → u.canvas.grid = s.canvas.grid) ∧
  (∀ (h h' : BitVec 3) (v v' : BitVec 4) (s t u : State), exec (.scrollCopy 0#2 h 1#2 v) s = .next t →
    exec (.scrollCopy 0#2 h' 2#2 v') t = .next u → u.canvas.grid = s.canvas.grid) ∧
  ∀ g : Grid, (hShift 1#2 .wrap)^[50] g = g ∧ (vShift 1#2 .wrap)^[18] g = g

/-! ## Colours -/

/-- R191: entries 0..7 take the eight colours, each 4-bit channel times 17; entries 8..15 and the canvas are not
touched; the change bit is true exactly where one of entries 0..7 differs from its previous value. -/
def Obligations.ColorsLowSetsEntries : Prop :=
  ∀ (rgb : Vector Rgb12 8) (s : State),
    ∃ t ch, exec (.colorsLow rgb) s = .next t ∧ Consumed s t ch ∧
      (∀ k : Fin 8, (t.canvas.pal[k.val]'(by omega)).r.toNat = 17 * (rgb[k]).r.toNat ∧
        (t.canvas.pal[k.val]'(by omega)).g.toNat = 17 * (rgb[k]).g.toNat ∧
        (t.canvas.pal[k.val]'(by omega)).b.toNat = 17 * (rgb[k]).b.toNat) ∧
      (∀ (i : Nat) (h : i < 16), 8 ≤ i → t.canvas.pal[i] = s.canvas.pal[i]) ∧
      (ch = true ↔ ∃ k : Fin 8, t.canvas.pal[k.val]'(by omega) ≠ s.canvas.pal[k.val]'(by omega)) ∧
      t.canvas.grid = s.canvas.grid ∧ t.canvas.hOff = s.canvas.hOff ∧ t.canvas.vOff = s.canvas.vOff

/-- R192: the same for entries 8..15; entries 0..7 are never touched. -/
def Obligations.ColorsHighSetsEntries : Prop :=
  ∀ (rgb : Vector Rgb12 8) (s : State),
    ∃ t ch, exec (.colorsHigh rgb) s = .next t ∧ Consumed s t ch ∧
      (∀ k : Fin 8, (t.canvas.pal[8 + k.val]'(by omega)).r.toNat = 17 * (rgb[k]).r.toNat ∧
        (t.canvas.pal[8 + k.val]'(by omega)).g.toNat = 17 * (rgb[k]).g.toNat ∧
        (t.canvas.pal[8 + k.val]'(by omega)).b.toNat = 17 * (rgb[k]).b.toNat) ∧
      (∀ (i : Nat) (h : i < 8), t.canvas.pal[i] = s.canvas.pal[i]) ∧
      (ch = true ↔ ∃ k : Fin 8, t.canvas.pal[8 + k.val]'(by omega) ≠ s.canvas.pal[8 + k.val]'(by omega)) ∧
      t.canvas.grid = s.canvas.grid ∧ t.canvas.hOff = s.canvas.hOff ∧ t.canvas.vOff = s.canvas.vOff

/-- R193: DEFTRANSP writes nothing of the picture and never reports a change; `last` becomes `None` by decision D7
(notes/assumptions/7.md). -/
def Obligations.DefTranspIsNop : Prop :=
  ∀ s : State, ∃ t, exec .defTransp s = .next t ∧ t.canvas = { s.canvas with last := .none } ∧ Consumed s t false

/-! ## Frame output -/

/-- R211, R212: byte `y*288 + x` of a frame is the canvas cell `(12 + vOff + y, 6 + hOff + x)`, zero-extended, and the frame
has exactly `CDG_IMAGE_SIZE` bytes. Pixel order and the sign of the offsets are D5 and D6
(notes/assumptions/12.md). -/
def Obligations.FrameShowsCropWindow : Prop :=
  ∀ (p : Params) (cv : Canvas),
    (snapshot p cv).size = 288 * 192 + p.paletteLayout.length ∧
    ∀ (x : Fin 288) (y : Fin 192) (r : Fin 216) (c : Fin 300),
      r.val = 12 + cv.vOff.val + y.val → c.val = 6 + cv.hOff.val + x.val →
        (snapshot p cv).read (y.val * 288 + x.val) = some ((cv.grid.cell r c).setWidth 8)

/-- R213, decision D4 (notes/assumptions/12.md): under the default layout a frame has 55344 bytes and entry `i` stands at
bytes `55296 + 3i`, red, green, blue; under every layout the bitmap part is the same. -/
def Obligations.FrameCarriesPalette : Prop :=
  (∀ (p : Params) (cv : Canvas), p.paletteLayout = PaletteLayout.rgb888x16 →
    (snapshot p cv).size = 55344 ∧
    ∀ i : Fin 16, (snapshot p cv).read (55296 + 3 * i.val) = some (cv.pal[i]).r ∧
      (snapshot p cv).read (55296 + 3 * i.val + 1) = some (cv.pal[i]).g ∧
      (snapshot p cv).read (55296 + 3 * i.val + 2) = some (cv.pal[i]).b) ∧
  ∀ (p q : Params) (cv : Canvas) (a : Nat), a < 55296 → (snapshot p cv).read a = (snapshot q cv).read a

/-- R214, decision D5 (notes/assumptions/12.md): the picture of a frame is, pixel by pixel, the palette entry of the
visible cell. -/
def Obligations.CompositorShowsPalette : Prop :=
  ∀ (p : Params) (cv : Canvas) (x : Fin 288) (y : Fin 192), p.paletteLayout = PaletteLayout.rgb888x16 →
    composite (snapshot p cv) x y = some (cv.pal[(visible cv x y).toNat]'(by omega))

/-- R215, which follows from R211: rows 0..11 and 215 and columns 0..5 and 299 are never visible: canvases that agree elsewhere have the same
frame. It rests on the crop of D6 (notes/assumptions/12.md). -/
def Obligations.BorderCellsNeverVisible : Prop :=
  ∀ (p : Params) (a b : Canvas), a.pal = b.pal → a.hOff = b.hOff → a.vOff = b.vOff →
    (∀ (r : Fin 216) (c : Fin 300), 12 ≤ r.val → r.val ≤ 214 → 6 ≤ c.val → c.val ≤ 298 →
      a.grid.cell r c = b.grid.cell r c) →
    snapshot p a = snapshot p b

/-! ## Transactions -/

/-- R230: LOAD holds the bytes and sets every other element to its fresh value; every byte string is accepted. What is
fresh for the offsets and `last` is decision D24 (notes/assumptions/6.md). -/
def Obligations.LoadMakesEverythingFresh : Prop :=
  ∀ (bytes : List Byte) (rest : List Transaction) (s : State), s.phase = .idle → s.pending = .load bytes :: rest →
    ∃ t, step s = .next t ∧ t.loaded = true ∧ t.packets = bytes.length / 24 ∧ t.buf.wf = true ∧
      (∀ a, t.buf.read a = bytes[a]?) ∧ t.canvas = Canvas.fresh ∧ t.reader = Reader.fresh ∧ t.frame = none ∧
      t.phase = .idle ∧ t.pending = rest ∧ t.replies = s.replies ++ [.done] ∧ t.cfg = s.cfg

/-- R231, decision D22 (notes/assumptions/17.md): UNLOAD drops the stream and sets everything fresh. -/
def Obligations.UnloadDropsStream : Prop :=
  ∀ (rest : List Transaction) (s : State), s.phase = .idle → s.pending = .unload :: rest →
    ∃ t, step s = .next t ∧ t.loaded = false ∧ t.buf.size = 0 ∧ (∀ a, t.buf.read a = none) ∧
      t.canvas = Canvas.fresh ∧ t.reader = Reader.fresh ∧ t.frame = none ∧ t.phase = .idle ∧ t.pending = rest ∧
      t.replies = s.replies ++ [.done] ∧ t.cfg = s.cfg

/-- R232, decision D22 (notes/assumptions/17.md): with no stream, each transaction answers "no data" and writes no
state. -/
def Obligations.UnloadedAnswersNoData : Prop :=
  ∀ (s : State) (ms : Nat), s.loaded = false →
    transact .move s = .next (s.reply (.move none)) ∧
    transact (.seek ms) s = .next (s.reply (.seek false)) ∧
    transact .totalMs s = .next (s.reply (.ms 0)) ∧
    transact .curPosMs s = .next (s.reply (.ms 0)) ∧
    transact .curDurMs s = .next (s.reply (.ms 0)) ∧
    transact .finalPosMs s = .next (s.reply (.finalPos (-1))) ∧
    transact .readFrame s = .next (s.reply (.frame none))

/-- R260 to R264: TOTAL_MS answers `(S.N * 1000) div 300`, READ_FRAME the current frame, and the position queries their
cursors; none writes state. The conversion of a delta is D16, the -1 of a stream with no change D17
(notes/assumptions/16.md). -/
def Obligations.QueryAnswers : Prop :=
  ∀ s : State, s.loaded = true →
    transact .totalMs s = .next (s.reply (.ms (s.packets * 1000 / 300))) ∧
    transact .readFrame s = .next (s.reply (.frame s.frame)) ∧
    transact .curPosMs s = .next (s.reply (.ms (s.reader.curIdx * 1000 / 300))) ∧
    transact .curDurMs s = .next (s.reply (.ms ((s.reader.nextIdx - s.reader.curIdx) * 1000 / 300))) ∧
    (∀ k, s.reader.eos = true → s.reader.lastChange = some k →
      transact .finalPosMs s = .next (s.reply (.finalPos (k * 1000 / 300 : Nat)))) ∧
    (s.reader.eos = false ∨ s.reader.lastChange = none →
      transact .finalPosMs s = .next (s.reply (.finalPos (-1))))

/-- R241: MOVE's step 2 takes the snapshot of the canvas as it is and moves the current boundary, and nothing else of the
block's state is written; here for a MOVE that skips the baseline. That this is one step of its own is the model's cut of a
transaction (notes/assumptions/4.md). -/
def Obligations.MoveTakesSnapshot : Prop :=
  ∀ (rest : List Transaction) (s : State), s.phase = .idle → s.pending = .move :: rest → s.loaded = true →
    s.reader.started = true →
    ∃ t, step s = .next t ∧ t.frame = some (snapshot s.cfg s.canvas) ∧ t.reader.curIdx = s.reader.nextIdx ∧
      t.reader.nextIdx = s.reader.nextIdx ∧ t.reader.pktIdx = s.reader.pktIdx ∧ t.canvas = s.canvas ∧
      t.cfg = s.cfg ∧ t.loaded = s.loaded ∧ t.buf = s.buf ∧ t.reader.lastChange = s.reader.lastChange ∧
      t.reader.eos = s.reader.eos ∧ t.reader.started = s.reader.started ∧ t.phase = .frameLoop ∧ t.changed = false ∧ t.replies = s.replies ∧ t.pending = rest

/-- R240: the baseline loop consumes without emitting until the first change, then sets the boundary at the read cursor
(decision D14, notes/assumptions/14.md) and takes the snapshot; at the end of the stream it sets `eos` and does the
same. -/
def Obligations.BaselineStopsAtFirstChange : Prop :=
  ∀ s : State, s.phase = .baseline →
    (∀ u, s.reader.pktIdx ≠ s.packets → consume s = .next u → u.changed = false → step s = .next u) ∧
    (∀ u, s.reader.pktIdx ≠ s.packets → consume s = .next u → u.changed = true →
      ∃ t, step s = .next t ∧ t.phase = .frameLoop ∧ t.changed = false ∧ t.canvas = u.canvas ∧
        t.reader = { u.reader with curIdx := u.reader.pktIdx, nextIdx := u.reader.pktIdx } ∧
        t.frame = some (snapshot u.cfg u.canvas) ∧ t.replies = u.replies) ∧
    (s.reader.pktIdx = s.packets →
      ∃ t, step s = .next t ∧ t.phase = .frameLoop ∧ t.changed = false ∧ t.canvas = s.canvas ∧
        t.reader = { s.reader with curIdx := s.reader.pktIdx, nextIdx := s.reader.pktIdx, eos := true } ∧
        t.frame = some (snapshot s.cfg s.canvas) ∧ t.replies = s.replies)

/-- R242, R243: the frame loop stops after a packet exactly where a change has occurred in this loop and at least 5
packets have been consumed since the current boundary; the next boundary is then the read cursor, and the current
frame is delivered with its position and duration. -/
def Obligations.FrameLoopStopsAfterFive : Prop :=
  ∀ s u : State, s.phase = .frameLoop → s.reader.pktIdx ≠ s.packets → consume s = .next u →
    (u.changed = true ∧ 5 ≤ u.reader.pktIdx - u.reader.curIdx →
      ∃ t, step s = .next t ∧ t.phase = .idle ∧ t.reader = { u.reader with nextIdx := u.reader.pktIdx } ∧
        t.canvas = u.canvas ∧ t.frame = u.frame ∧
        ∀ f, u.frame = some f →
          t.replies = u.replies ++ [.move (some ⟨f, u.reader.curIdx * 1000 / 300,
            (u.reader.pktIdx - u.reader.curIdx) * 1000 / 300⟩)]) ∧
    (u.changed = false ∨ u.reader.pktIdx - u.reader.curIdx < 5 → step s = .next u)

/-- R244, decision D15 (notes/assumptions/14.md): at the end of the stream the frame loop sets `eos` and delivers the
current frame exactly where a change occurred in this loop. -/
def Obligations.FrameLoopAtEndOfStream : Prop :=
  ∀ (s : State) (f : Memory), s.phase = .frameLoop → s.reader.pktIdx = s.packets → s.frame = some f →
    s.reader.curIdx = s.reader.nextIdx → s.reader.curIdx ≤ s.reader.pktIdx →
    (s.changed = true → s.reader.curIdx < s.reader.pktIdx →
      ∃ t, step s = .next t ∧ t.phase = .idle ∧ t.frame = some f ∧ t.canvas = s.canvas ∧
        t.reader = { s.reader with nextIdx := s.reader.pktIdx, eos := true } ∧
        t.replies = s.replies ++ [.move (some ⟨f, s.reader.curIdx * 1000 / 300,
          (s.packets - s.reader.curIdx) * 1000 / 300⟩)]) ∧
    (s.changed = false →
      ∃ t, step s = .next t ∧ t.phase = .idle ∧ t.frame = some f ∧ t.canvas = s.canvas ∧
        t.reader = { s.reader with eos := true } ∧ t.replies = s.replies ++ [.move none])

/-- R247 (1), marked derived in the spec, and R285: every MOVE ends with exactly one response, at the idle block, having consumed only packets that
were left. Under the default tile policy. -/
def Obligations.EveryMoveEnds : Prop :=
  ∀ s : State, StateInv s → s.phase = .idle → s.cfg.tileOob = .skip →
    ∃ t r, transact .move s = .next t ∧ t.phase = .idle ∧ t.replies = s.replies ++ [.move r] ∧
      s.reader.pktIdx ≤ t.reader.pktIdx ∧ t.reader.pktIdx ≤ s.packets ∧ t.buf = s.buf ∧ StateInv t

/-- R247 (2), marked derived in the spec, with R243, R244: the boundaries of a delivered frame are at least 5 packets apart, but for the last one at the
end of the stream (D15, notes/assumptions/14.md). -/
def Obligations.DeliveredFramesAreSpaced : Prop :=
  ∀ (s t : State) (d : Delivery), StateInv s → s.phase = .idle → transact .move s = .next t →
    t.replies = s.replies ++ [.move (some d)] →
    5 ≤ t.reader.nextIdx - t.reader.curIdx ∨
      (t.reader.eos = true ∧ t.reader.curIdx < t.reader.nextIdx ∧ t.reader.nextIdx = s.packets)

/-- R241, R245, R69: the frame a MOVE delivers shows the canvas after exactly the packets before its boundary, whatever
was consumed after the snapshot, with the position and duration of its boundaries (D14, notes/assumptions/14.md). -/
def Obligations.DeliveredFrameIsCanvasAtBoundary : Prop :=
  ∀ (s t : State) (d : Delivery), StateInv s → Replayed s → s.phase = .idle → transact .move s = .next t →
    t.replies = s.replies ++ [.move (some d)] →
    d.posMs = t.reader.curIdx * 1000 / 300 ∧ d.durMs = (t.reader.nextIdx - t.reader.curIdx) * 1000 / 300 ∧
    t.frame = some d.frame ∧
    ∃ u, consumeMany t.reader.curIdx s.rewound = .next u ∧ d.frame = snapshot s.cfg u.canvas

/-- R247 (3), marked derived in the spec: once the end of the stream is reached, every further MOVE answers false and consumes nothing. -/
def Obligations.MoveAtEndAnswersFalse : Prop :=
  ∀ s : State, StateInv s → s.phase = .idle → s.reader.eos = true →
    ∃ t, transact .move s = .next t ∧ t.replies = s.replies ++ [.move none] ∧
      t.reader.pktIdx = s.reader.pktIdx ∧ t.reader.nextIdx = s.reader.nextIdx ∧
      t.reader.curIdx = s.reader.nextIdx ∧ t.canvas = s.canvas ∧ t.reader.eos = true

/-- R250, R252 (1), decision D19 (notes/assumptions/15.md): a SEEK beyond the total answers false and writes no state. -/
def Obligations.SeekBeyondTotalFails : Prop :=
  ∀ (s : State) (ms : Nat), s.loaded = true → s.packets * 1000 / 300 < ms →
    transact (.seek ms) s = .next (s.reply (.seek false))

/-- R250 to R252, decisions D19 to D21 (notes/assumptions/15.md) and laws marked derived: a SEEK within the total lands on its target with the
canvas and `last_change` of a direct sequential read, whichever path it took, both boundaries there, no frame
written, and `eos` true only where it was and no rewind was made. -/
def Obligations.SeekLandsOnTarget : Prop :=
  ∀ (s : State) (ms : Nat), StateInv s → Replayed s → s.phase = .idle → s.loaded = true → s.cfg.tileOob = .skip →
    ms ≤ s.packets * 1000 / 300 →
    ∃ t u, transact (.seek ms) s = .next t ∧ consumeMany (ms * 300 / 1000) s.rewound = .next u ∧
      t.canvas = u.canvas ∧ t.reader.lastChange = u.reader.lastChange ∧ t.reader.pktIdx = ms * 300 / 1000 ∧
      t.reader.curIdx = ms * 300 / 1000 ∧ t.reader.nextIdx = ms * 300 / 1000 ∧ t.reader.started = true ∧
      t.reader.eos = (s.reader.eos && decide (s.reader.pktIdx ≤ ms * 300 / 1000)) ∧
      t.frame = s.frame ∧ t.buf = s.buf ∧ t.phase = .idle ∧ t.replies = s.replies ++ [.seek true]

/-- R70, R73: the packet-by-packet machine carries out each transaction as the one atomic operation of
46_frame_index.md: from an idle block, some number of steps gives exactly the whole transaction's outcome. How a
transaction is cut into steps is the model's choice (notes/assumptions/4.md). -/
def Obligations.StepsCarryOutTransaction : Prop :=
  ∀ (s : State) (tr : Transaction) (rest : List Transaction), StateInv s → s.phase = .idle → s.pending = tr :: rest →
    ∃ n, runSteps n s = transact tr (s.setPending rest)

/-! ## Rules of the whole machine -/

/-- R68: the input buffer is written only by LOAD, which replaces it whole and resets all other state with it, and by
UNLOAD, which discards it; no packet writes it. -/
def Obligations.BufferWrittenOnlyByLoadAndUnload : Prop :=
  ∀ s t : State, step s = .next t →
    (t.buf = s.buf ∧ t.loaded = s.loaded) ∨
    (∃ bytes rest, s.phase = .idle ∧ s.pending = .load bytes :: rest ∧ t.buf = Memory.ofBytes bytes ∧ t.loaded = true ∧
      t.canvas = Canvas.fresh ∧ t.reader = Reader.fresh ∧ t.frame = none) ∨
    (∃ rest, s.phase = .idle ∧ s.pending = .unload :: rest ∧ t.buf.size = 0 ∧ t.loaded = false ∧
      t.canvas = Canvas.fresh ∧ t.reader = Reader.fresh ∧ t.frame = none)

/-- R50 (D1, notes/assumptions/17.md), R36, R37, R34: who writes the Canvas. A step that consumes no packet leaves the Canvas or makes it fresh (LOAD,
UNLOAD, the rewind of SEEK); a packet changes the palette only if it is ColorsLow or ColorsHigh, the offsets only if it
is a scroll, and the cells only if it is none of the colour packets and DefineTransparent. -/
def Obligations.CanvasWriters : Prop :=
  ∀ s t : State, step s = .next t →
    (wantsPacket s = false → t.canvas = s.canvas ∨ t.canvas = Canvas.fresh) ∧
    (wantsPacket s = true →
      (t.canvas.pal ≠ s.canvas.pal → ∃ rgb, decodeRecord (s.buf.record s.reader.pktIdx) = .ok (.colorsLow rgb) ∨
        decodeRecord (s.buf.record s.reader.pktIdx) = .ok (.colorsHigh rgb)) ∧
      (t.canvas.hOff ≠ s.canvas.hOff ∨ t.canvas.vOff ≠ s.canvas.vOff → ∃ color hCmd hOffNew vCmd vOffNew,
        decodeRecord (s.buf.record s.reader.pktIdx) = .ok (.scrollPreset color hCmd hOffNew vCmd vOffNew) ∨
        decodeRecord (s.buf.record s.reader.pktIdx) = .ok (.scrollCopy hCmd hOffNew vCmd vOffNew)) ∧
      (t.canvas.grid ≠ s.canvas.grid → ∃ i, decodeRecord (s.buf.record s.reader.pktIdx) = .ok i ∧
        i ≠ .defTransp ∧ (∀ rgb, i ≠ .colorsLow rgb) ∧ ∀ rgb, i ≠ .colorsHigh rgb))

/-- R40: the read cursor advances by exactly 1 where a packet is consumed, and otherwise stays or is set back to 0, by a
transaction the idle block takes: LOAD, UNLOAD or the rewind of a SEEK to before it. -/
def Obligations.CursorAdvancesOrRewinds : Prop :=
  ∀ s t : State, step s = .next t →
    (wantsPacket s = true ∧ t.reader.pktIdx = s.reader.pktIdx + 1) ∨
    (wantsPacket s = false ∧ t.reader.pktIdx = s.reader.pktIdx) ∨
    (s.phase = .idle ∧ t.reader.pktIdx = 0 ∧ ∃ tr rest, s.pending = tr :: rest ∧
      ((∃ bytes, tr = .load bytes) ∨ tr = .unload ∨ ∃ ms, tr = .seek ms ∧ msToPkt ms < s.reader.pktIdx))

/-- R47, R69: the frame is a copy. A step leaves it, or takes a snapshot of the canvas it leaves (at the start of MOVE's
frame loop), or clears it (LOAD, UNLOAD). -/
def Obligations.FrameChangesOnlyBySnapshot : Prop :=
  ∀ s t : State, step s = .next t →
    t.frame = s.frame ∨ (t.frame = some (snapshot t.cfg t.canvas) ∧ t.phase = .frameLoop ∧ t.changed = false) ∨
    (t.frame = none ∧ s.phase = .idle ∧ ∃ tr rest, s.pending = tr :: rest ∧ ((∃ bytes, tr = .load bytes) ∨ tr = .unload))

/-- The parameters are fixed for a run (R49), and a step gives at most one response (R233). -/
def Obligations.ParametersFixedRepliesGrow : Prop :=
  ∀ s t : State, step s = .next t → t.cfg = s.cfg ∧ (t.replies = s.replies ∨ ∃ r, t.replies = s.replies ++ [r])

/-- R49, R116, marked derived in the spec: what the block did depends only on the packets consumed: two streams that agree on their first `n`
records, read from a fresh start under the same parameters, give the same Canvas and the same `last_change`. -/
def Obligations.DecodingIsDeterministic : Prop :=
  ∀ (n : Nat) (s s' t : State), s.cfg = s'.cfg → s'.loaded = true → n ≤ s'.packets →
    (∀ k, k < n → s.buf.record k = s'.buf.record k) → consumeMany n s.rewound = .next t →
    ∃ t', consumeMany n s'.rewound = .next t' ∧ t'.canvas = t.canvas ∧ t'.reader = t.reader

end
end

