-- ==== Sys2Proof/Laws/Grid.lean ====
section
/-! SUPPORT. The grid through its cells: every grid operation says what each cell holds, and two grids with
the same cells are equal. -/

namespace Sys2Proof.Machine

@[simp] theorem getElem_tabulate {α : Type} (n : Nat) (f : Fin n → α) (i : Nat) (h : i < n) :
    (tabulate n f)[i] = f ⟨i, h⟩ := by
  simp [tabulate]

@[simp] theorem cell_tabulate (f : Fin 216 → Fin 300 → Cell) (r : Fin 216) (c : Fin 300) :
    (Grid.tabulate f).cell r c = f r c := by
  simp [Grid.tabulate, Grid.cell]

@[simp] theorem cell_fill (color : Cell) (r : Fin 216) (c : Fin 300) : (Grid.fill color).cell r c = color := by
  simp [Grid.fill, Grid.cell]

/-- Two grids with the same cells are equal. -/
theorem grid_ext {g h : Grid} (e : ∀ r c, g.cell r c = h.cell r c) : g = h := by
  apply Vector.ext
  intro r hr
  apply Vector.ext
  intro c hc
  exact e ⟨r, hr⟩ ⟨c, hc⟩

theorem fill_of_cells {g : Grid} {color : Cell} (e : ∀ r c, g.cell r c = color) : g = Grid.fill color :=
  grid_ext fun r c => by simp [e]

@[simp] theorem fresh_grid : Canvas.fresh.grid = Grid.fill 0#4 := rfl
@[simp] theorem fresh_last : Canvas.fresh.last = .none := rfl
@[simp] theorem fresh_hOff : Canvas.fresh.hOff = 0 := rfl
@[simp] theorem fresh_vOff : Canvas.fresh.vOff = 0 := rfl

@[simp] theorem fresh_pal (i : Nat) (h : i < 16) : Canvas.fresh.pal[i] = ⟨0#8, 0#8, 0#8⟩ := by
  simp [Canvas.fresh]

/-! ## Tiles -/

/-- R150, R151: a cell of the tile. -/
theorem cell_paintTile_inside (put : Cell → Cell → Cell) (color0 color1 : BitVec 4) (row : BitVec 5)
    (col : BitVec 6) (bits : Vector (BitVec 6) 12) (g : Grid) (i : Fin 12) (j : Fin 6) (r : Fin 216) (c : Fin 300)
    (hr : r.val = row.toNat * 12 + i.val) (hc : c.val = col.toNat * 6 + j.val) :
    (paintTile put color0 color1 row col bits g).cell r c =
      put (g.cell r c) (if bits[i.val].getLsbD (5 - j.val) then color1 else color0) := by
  have hin : inTile row col r.val c.val := by simp [inTile, tileY0, tileX0]; omega
  have hi : r.val - tileY0 row = i.val := by simp [tileY0]; omega
  have hj : c.val - tileX0 col = j.val := by simp [tileX0]; omega
  simp only [paintTile, cell_tabulate, dif_pos hin, tileColour, hi, hj]

/-- R150, R151: a cell outside the tile. -/
theorem cell_paintTile_outside (put : Cell → Cell → Cell) (color0 color1 : BitVec 4) (row : BitVec 5)
    (col : BitVec 6) (bits : Vector (BitVec 6) 12) (g : Grid) (r : Fin 216) (c : Fin 300)
    (h : ¬ inTile row col r.val c.val) :
    (paintTile put color0 color1 row col bits g).cell r c = g.cell r c := by
  simp only [paintTile, cell_tabulate, dif_neg h]

/-! ## Scrolls -/

@[simp] theorem modIndex_val (n : Nat) (h : 0 < n) (s : Int) : ((modIndex n h s).val : Int) = s % n := by
  have := Int.emod_nonneg s (Int.natCast_ne_zero_iff_pos.mpr h)
  simp [modIndex, this]

/-- R170: a cell that some old cell moves into, horizontally. -/
theorem cell_hShift_moved {cmd : BitVec 2} {fill : Fill} {g : Grid} {d : Int} (hd : shiftDelta cmd 6 = some d)
    (r : Fin 216) (c c' : Fin 300) (h : (c'.val : Int) = c.val + d) :
    (hShift cmd fill g).cell r c = g.cell r c' := by
  have hs : 0 ≤ (c.val : Int) + d ∧ (c.val : Int) + d < 300 := by omega
  have hm : modIndex 300 (by decide) ((c.val : Int) + d) = c' := by
    apply Fin.ext; have := modIndex_val 300 (by decide) ((c.val : Int) + d); omega
  simp only [hShift, Config.tileW, Nat.cast_ofNat, hd, cell_tabulate, hs, and_self, if_true, hm]

/-- R170: a vacated cell, horizontally, flat fill. -/
theorem cell_hShift_flat {cmd : BitVec 2} {color : Cell} {g : Grid} {d : Int} (hd : shiftDelta cmd 6 = some d)
    (r : Fin 216) (c : Fin 300) (h : (c.val : Int) + d < 0 ∨ 300 ≤ (c.val : Int) + d) :
    (hShift cmd (.flat color) g).cell r c = color := by
  have hs : ¬ (0 ≤ (c.val : Int) + d ∧ (c.val : Int) + d < 300) := by omega
  simp only [hShift, Config.tileW, Nat.cast_ofNat, hd, cell_tabulate, hs, if_false]

/-- R170: every cell, horizontally, wrapped. -/
theorem cell_hShift_wrap {cmd : BitVec 2} {g : Grid} {d : Int} (hd : shiftDelta cmd 6 = some d)
    (r : Fin 216) (c : Fin 300) :
    (hShift cmd .wrap g).cell r c = g.cell r (modIndex 300 (by decide) (c.val + d)) := by
  simp only [hShift, Config.tileW, Nat.cast_ofNat, hd, cell_tabulate, ite_self]

/-- R170, D10: no horizontal shift. -/
theorem hShift_none {cmd : BitVec 2} {fill : Fill} {g : Grid} (hd : shiftDelta cmd 6 = none) :
    hShift cmd fill g = g := by
  simp only [hShift, Config.tileW, Nat.cast_ofNat, hd]

/-- R170: a cell that some old cell moves into, vertically. -/
theorem cell_vShift_moved {cmd : BitVec 2} {fill : Fill} {g : Grid} {d : Int} (hd : shiftDelta cmd 12 = some d)
    (r r' : Fin 216) (c : Fin 300) (h : (r'.val : Int) = r.val + d) :
    (vShift cmd fill g).cell r c = g.cell r' c := by
  have hs : 0 ≤ (r.val : Int) + d ∧ (r.val : Int) + d < 216 := by omega
  have hm : modIndex 216 (by decide) ((r.val : Int) + d) = r' := by
    apply Fin.ext; have := modIndex_val 216 (by decide) ((r.val : Int) + d); omega
  simp only [vShift, Config.tileH, Nat.cast_ofNat, hd, cell_tabulate, hs, and_self, if_true, hm]

/-- R170: a vacated cell, vertically, flat fill. -/
theorem cell_vShift_flat {cmd : BitVec 2} {color : Cell} {g : Grid} {d : Int} (hd : shiftDelta cmd 12 = some d)
    (r : Fin 216) (c : Fin 300) (h : (r.val : Int) + d < 0 ∨ 216 ≤ (r.val : Int) + d) :
    (vShift cmd (.flat color) g).cell r c = color := by
  have hs : ¬ (0 ≤ (r.val : Int) + d ∧ (r.val : Int) + d < 216) := by omega
  simp only [vShift, Config.tileH, Nat.cast_ofNat, hd, cell_tabulate, hs, if_false]

/-- R170: every cell, vertically, wrapped. -/
theorem cell_vShift_wrap {cmd : BitVec 2} {g : Grid} {d : Int} (hd : shiftDelta cmd 12 = some d)
    (r : Fin 216) (c : Fin 300) :
    (vShift cmd .wrap g).cell r c = g.cell (modIndex 216 (by decide) (r.val + d)) c := by
  simp only [vShift, Config.tileH, Nat.cast_ofNat, hd, cell_tabulate, ite_self]

/-- R170, D10: no vertical shift. -/
theorem vShift_none {cmd : BitVec 2} {fill : Fill} {g : Grid} (hd : shiftDelta cmd 12 = none) :
    vShift cmd fill g = g := by
  simp only [vShift, Config.tileH, Nat.cast_ofNat, hd]

/-- R91: what each direction code does. -/
theorem shiftDelta_cases (cmd : BitVec 2) (unit : Int) :
    (cmd = 0#2 ∧ shiftDelta cmd unit = none) ∨ (cmd = 1#2 ∧ shiftDelta cmd unit = some (-unit)) ∨
    (cmd = 2#2 ∧ shiftDelta cmd unit = some unit) ∨ (cmd = 3#2 ∧ shiftDelta cmd unit = none) := by
  match cmd with
  | 0#2 => exact .inl ⟨rfl, rfl⟩
  | 1#2 => exact .inr (.inl ⟨rfl, rfl⟩)
  | 2#2 => exact .inr (.inr (.inl ⟨rfl, rfl⟩))
  | 3#2 => exact .inr (.inr (.inr ⟨rfl, rfl⟩))

end Sys2Proof.Machine
end

