-- ==== Sys2Proof/Laws/State.lean ====
section
/-! SUPPORT. One lemma per field per update of State, so that no proof unfolds a record update. -/

namespace Sys2Proof.Machine

variable (s : State)

@[simp] theorem setCanvas_cfg (c : Canvas) : (s.setCanvas c).cfg = s.cfg := rfl
@[simp] theorem setCanvas_loaded (c : Canvas) : (s.setCanvas c).loaded = s.loaded := rfl
@[simp] theorem setCanvas_buf (c : Canvas) : (s.setCanvas c).buf = s.buf := rfl
@[simp] theorem setCanvas_canvas (c : Canvas) : (s.setCanvas c).canvas = c := rfl
@[simp] theorem setCanvas_reader (c : Canvas) : (s.setCanvas c).reader = s.reader := rfl
@[simp] theorem setCanvas_frame (c : Canvas) : (s.setCanvas c).frame = s.frame := rfl
@[simp] theorem setCanvas_pending (c : Canvas) : (s.setCanvas c).pending = s.pending := rfl
@[simp] theorem setCanvas_phase (c : Canvas) : (s.setCanvas c).phase = s.phase := rfl
@[simp] theorem setCanvas_changed (c : Canvas) : (s.setCanvas c).changed = s.changed := rfl
@[simp] theorem setCanvas_replies (c : Canvas) : (s.setCanvas c).replies = s.replies := rfl

@[simp] theorem setReader_cfg (r : Reader) : (s.setReader r).cfg = s.cfg := rfl
@[simp] theorem setReader_loaded (r : Reader) : (s.setReader r).loaded = s.loaded := rfl
@[simp] theorem setReader_buf (r : Reader) : (s.setReader r).buf = s.buf := rfl
@[simp] theorem setReader_canvas (r : Reader) : (s.setReader r).canvas = s.canvas := rfl
@[simp] theorem setReader_reader (r : Reader) : (s.setReader r).reader = r := rfl
@[simp] theorem setReader_frame (r : Reader) : (s.setReader r).frame = s.frame := rfl
@[simp] theorem setReader_pending (r : Reader) : (s.setReader r).pending = s.pending := rfl
@[simp] theorem setReader_phase (r : Reader) : (s.setReader r).phase = s.phase := rfl
@[simp] theorem setReader_changed (r : Reader) : (s.setReader r).changed = s.changed := rfl
@[simp] theorem setReader_replies (r : Reader) : (s.setReader r).replies = s.replies := rfl

@[simp] theorem setFrame_cfg (f : Option Memory) : (s.setFrame f).cfg = s.cfg := rfl
@[simp] theorem setFrame_loaded (f : Option Memory) : (s.setFrame f).loaded = s.loaded := rfl
@[simp] theorem setFrame_buf (f : Option Memory) : (s.setFrame f).buf = s.buf := rfl
@[simp] theorem setFrame_canvas (f : Option Memory) : (s.setFrame f).canvas = s.canvas := rfl
@[simp] theorem setFrame_reader (f : Option Memory) : (s.setFrame f).reader = s.reader := rfl
@[simp] theorem setFrame_frame (f : Option Memory) : (s.setFrame f).frame = f := rfl
@[simp] theorem setFrame_pending (f : Option Memory) : (s.setFrame f).pending = s.pending := rfl
@[simp] theorem setFrame_phase (f : Option Memory) : (s.setFrame f).phase = s.phase := rfl
@[simp] theorem setFrame_changed (f : Option Memory) : (s.setFrame f).changed = s.changed := rfl
@[simp] theorem setFrame_replies (f : Option Memory) : (s.setFrame f).replies = s.replies := rfl

@[simp] theorem setPending_cfg (l : List Transaction) : (s.setPending l).cfg = s.cfg := rfl
@[simp] theorem setPending_loaded (l : List Transaction) : (s.setPending l).loaded = s.loaded := rfl
@[simp] theorem setPending_buf (l : List Transaction) : (s.setPending l).buf = s.buf := rfl
@[simp] theorem setPending_canvas (l : List Transaction) : (s.setPending l).canvas = s.canvas := rfl
@[simp] theorem setPending_reader (l : List Transaction) : (s.setPending l).reader = s.reader := rfl
@[simp] theorem setPending_frame (l : List Transaction) : (s.setPending l).frame = s.frame := rfl
@[simp] theorem setPending_pending (l : List Transaction) : (s.setPending l).pending = l := rfl
@[simp] theorem setPending_phase (l : List Transaction) : (s.setPending l).phase = s.phase := rfl
@[simp] theorem setPending_changed (l : List Transaction) : (s.setPending l).changed = s.changed := rfl
@[simp] theorem setPending_replies (l : List Transaction) : (s.setPending l).replies = s.replies := rfl

@[simp] theorem setPhase_cfg (p : Phase) : (s.setPhase p).cfg = s.cfg := rfl
@[simp] theorem setPhase_loaded (p : Phase) : (s.setPhase p).loaded = s.loaded := rfl
@[simp] theorem setPhase_buf (p : Phase) : (s.setPhase p).buf = s.buf := rfl
@[simp] theorem setPhase_canvas (p : Phase) : (s.setPhase p).canvas = s.canvas := rfl
@[simp] theorem setPhase_reader (p : Phase) : (s.setPhase p).reader = s.reader := rfl
@[simp] theorem setPhase_frame (p : Phase) : (s.setPhase p).frame = s.frame := rfl
@[simp] theorem setPhase_pending (p : Phase) : (s.setPhase p).pending = s.pending := rfl
@[simp] theorem setPhase_phase (p : Phase) : (s.setPhase p).phase = p := rfl
@[simp] theorem setPhase_changed (p : Phase) : (s.setPhase p).changed = s.changed := rfl
@[simp] theorem setPhase_replies (p : Phase) : (s.setPhase p).replies = s.replies := rfl

@[simp] theorem setChanged_cfg (b : Bool) : (s.setChanged b).cfg = s.cfg := rfl
@[simp] theorem setChanged_loaded (b : Bool) : (s.setChanged b).loaded = s.loaded := rfl
@[simp] theorem setChanged_buf (b : Bool) : (s.setChanged b).buf = s.buf := rfl
@[simp] theorem setChanged_canvas (b : Bool) : (s.setChanged b).canvas = s.canvas := rfl
@[simp] theorem setChanged_reader (b : Bool) : (s.setChanged b).reader = s.reader := rfl
@[simp] theorem setChanged_frame (b : Bool) : (s.setChanged b).frame = s.frame := rfl
@[simp] theorem setChanged_pending (b : Bool) : (s.setChanged b).pending = s.pending := rfl
@[simp] theorem setChanged_phase (b : Bool) : (s.setChanged b).phase = s.phase := rfl
@[simp] theorem setChanged_changed (b : Bool) : (s.setChanged b).changed = b := rfl
@[simp] theorem setChanged_replies (b : Bool) : (s.setChanged b).replies = s.replies := rfl

@[simp] theorem reply_cfg (r : Response) : (s.reply r).cfg = s.cfg := rfl
@[simp] theorem reply_loaded (r : Response) : (s.reply r).loaded = s.loaded := rfl
@[simp] theorem reply_buf (r : Response) : (s.reply r).buf = s.buf := rfl
@[simp] theorem reply_canvas (r : Response) : (s.reply r).canvas = s.canvas := rfl
@[simp] theorem reply_reader (r : Response) : (s.reply r).reader = s.reader := rfl
@[simp] theorem reply_frame (r : Response) : (s.reply r).frame = s.frame := rfl
@[simp] theorem reply_pending (r : Response) : (s.reply r).pending = s.pending := rfl
@[simp] theorem reply_phase (r : Response) : (s.reply r).phase = s.phase := rfl
@[simp] theorem reply_changed (r : Response) : (s.reply r).changed = s.changed := rfl
@[simp] theorem reply_replies (r : Response) : (s.reply r).replies = s.replies ++ [r] := rfl

@[simp] theorem setStream_cfg (l : Bool) (m : Memory) : (s.setStream l m).cfg = s.cfg := rfl
@[simp] theorem setStream_loaded (l : Bool) (m : Memory) : (s.setStream l m).loaded = l := rfl
@[simp] theorem setStream_buf (l : Bool) (m : Memory) : (s.setStream l m).buf = m := rfl
@[simp] theorem setStream_canvas (l : Bool) (m : Memory) : (s.setStream l m).canvas = s.canvas := rfl
@[simp] theorem setStream_reader (l : Bool) (m : Memory) : (s.setStream l m).reader = s.reader := rfl
@[simp] theorem setStream_frame (l : Bool) (m : Memory) : (s.setStream l m).frame = s.frame := rfl
@[simp] theorem setStream_pending (l : Bool) (m : Memory) : (s.setStream l m).pending = s.pending := rfl
@[simp] theorem setStream_phase (l : Bool) (m : Memory) : (s.setStream l m).phase = s.phase := rfl
@[simp] theorem setStream_changed (l : Bool) (m : Memory) : (s.setStream l m).changed = s.changed := rfl
@[simp] theorem setStream_replies (l : Bool) (m : Memory) : (s.setStream l m).replies = s.replies := rfl

@[simp] theorem advance_cfg (ch : Bool) : (s.advance ch).cfg = s.cfg := rfl
@[simp] theorem advance_loaded (ch : Bool) : (s.advance ch).loaded = s.loaded := rfl
@[simp] theorem advance_buf (ch : Bool) : (s.advance ch).buf = s.buf := rfl
@[simp] theorem advance_canvas (ch : Bool) : (s.advance ch).canvas = s.canvas := rfl
@[simp] theorem advance_reader (ch : Bool) : (s.advance ch).reader = s.reader.consumed ch := rfl
@[simp] theorem advance_frame (ch : Bool) : (s.advance ch).frame = s.frame := rfl
@[simp] theorem advance_pending (ch : Bool) : (s.advance ch).pending = s.pending := rfl
@[simp] theorem advance_phase (ch : Bool) : (s.advance ch).phase = s.phase := rfl
@[simp] theorem advance_changed (ch : Bool) : (s.advance ch).changed = (s.changed || ch) := rfl
@[simp] theorem advance_replies (ch : Bool) : (s.advance ch).replies = s.replies := rfl

@[simp] theorem rewound_cfg : (s.rewound).cfg = s.cfg := rfl
@[simp] theorem rewound_loaded : (s.rewound).loaded = s.loaded := rfl
@[simp] theorem rewound_buf : (s.rewound).buf = s.buf := rfl
@[simp] theorem rewound_canvas : (s.rewound).canvas = Canvas.fresh := rfl
@[simp] theorem rewound_reader : (s.rewound).reader = Reader.fresh := rfl
@[simp] theorem rewound_frame : (s.rewound).frame = s.frame := rfl
@[simp] theorem rewound_pending : (s.rewound).pending = s.pending := rfl
@[simp] theorem rewound_phase : (s.rewound).phase = s.phase := rfl
@[simp] theorem rewound_changed : (s.rewound).changed = s.changed := rfl
@[simp] theorem rewound_replies : (s.rewound).replies = s.replies := rfl

@[simp] theorem setCanvas_packets (c : Canvas) : (s.setCanvas c).packets = s.packets := rfl
@[simp] theorem setReader_packets (r : Reader) : (s.setReader r).packets = s.packets := rfl
@[simp] theorem setFrame_packets (f : Option Memory) : (s.setFrame f).packets = s.packets := rfl
@[simp] theorem setPending_packets (l : List Transaction) : (s.setPending l).packets = s.packets := rfl
@[simp] theorem setPhase_packets (p : Phase) : (s.setPhase p).packets = s.packets := rfl
@[simp] theorem setChanged_packets (b : Bool) : (s.setChanged b).packets = s.packets := rfl
@[simp] theorem reply_packets (r : Response) : (s.reply r).packets = s.packets := rfl
@[simp] theorem advance_packets (ch : Bool) : (s.advance ch).packets = s.packets := rfl
@[simp] theorem rewound_packets : (s.rewound).packets = s.packets := rfl

@[simp] theorem setStream_packets (l : Bool) (m : Memory) : (s.setStream l m).packets = m.packets := rfl

/-! ## Reader -/

variable (r : Reader)

@[simp] theorem consumed_pktIdx (ch : Bool) : (r.consumed ch).pktIdx = r.pktIdx + 1 := rfl
@[simp] theorem consumed_curIdx (ch : Bool) : (r.consumed ch).curIdx = r.curIdx := rfl
@[simp] theorem consumed_nextIdx (ch : Bool) : (r.consumed ch).nextIdx = r.nextIdx := rfl
@[simp] theorem consumed_lastChange (ch : Bool) :
    (r.consumed ch).lastChange = if ch then some r.pktIdx else r.lastChange := rfl
@[simp] theorem consumed_eos (ch : Bool) : (r.consumed ch).eos = r.eos := rfl
@[simp] theorem consumed_started (ch : Bool) : (r.consumed ch).started = r.started := rfl

@[simp] theorem fresh_pktIdx : Reader.fresh.pktIdx = 0 := rfl
@[simp] theorem fresh_curIdx : Reader.fresh.curIdx = 0 := rfl
@[simp] theorem fresh_nextIdx : Reader.fresh.nextIdx = 0 := rfl
@[simp] theorem fresh_lastChange : Reader.fresh.lastChange = none := rfl
@[simp] theorem fresh_eos : Reader.fresh.eos = false := rfl
@[simp] theorem fresh_started : Reader.fresh.started = false := rfl

/-! ## Outcomes -/

@[simp] theorem andThen_next (k : State → Host.Outcome State Fault Refusal) : andThen (.next s) k = k s := rfl
@[simp] theorem andThen_fault (x : Fault) (k : State → Host.Outcome State Fault Refusal) :
    andThen (.fault x) k = .fault x := rfl
@[simp] theorem andThen_refused (x : Refusal) (k : State → Host.Outcome State Fault Refusal) :
    andThen (.refused x) k = .refused x := rfl

/-- A next state of `andThen` comes through a next state of its first part. -/
theorem andThen_eq_next {o : Host.Outcome State Fault Refusal} {k : State → Host.Outcome State Fault Refusal}
    {t : State} (h : andThen o k = .next t) : ∃ u, o = .next u ∧ k u = .next t := by
  cases o with
  | next u => exact ⟨u, rfl, h⟩
  | fault _ => simp at h
  | refused _ => simp at h

theorem andThen_assoc (o : Host.Outcome State Fault Refusal) (k l : State → Host.Outcome State Fault Refusal) :
    andThen (andThen o k) l = andThen o fun s => andThen (k s) l := by
  cases o <;> rfl

end Sys2Proof.Machine
end

