-- ==== Sys2Proof/Laws/Consume.lean ====
section
/-! SUPPORT. Once for all: what executing an instruction, consuming a record and consuming a packet can do.
`effect` collects the nine rules as one function on the Canvas (R112, R114), and the inversion lemmas say
that nothing but the Canvas, the cursor, `last_change` and the loop's `changed` is touched. -/

namespace Sys2Proof.Machine

/-- R114: the Canvas and the change bit that the rule of an instruction leaves, before `last` is updated. -/
def effect (cfg : Params) (i : Instr) (cv : Canvas) : Canvas × Bool :=
  match i with
  | .memPreset color rep => memoryPreset color rep cv
  | .borderPreset color => borderPreset cfg.borderBottom color cv
  | .tile color0 color1 row col bits =>
    if tileInside row col then tileBlock color0 color1 row col bits cv else (cv, false)
  | .scrollPreset color hCmd hOffNew vCmd vOffNew =>
    (scrolled cfg.scrollOob (.flat color) hCmd hOffNew vCmd vOffNew cv, true)
  | .scrollCopy hCmd hOffNew vCmd vOffNew => (scrolled cfg.scrollOob .wrap hCmd hOffNew vCmd vOffNew cv, true)
  | .defTransp => (cv, false)
  | .colorsLow rgb => loadColours 0 (by decide) rgb cv
  | .colorsHigh rgb => loadColours 8 (by decide) rgb cv
  | .tileXor color0 color1 row col bits =>
    if tileInside row col then tileBlockXor color0 color1 row col bits cv else (cv, false)

/-- R282: the instruction is a tile outside the canvas under the policy `refuse`. -/
def refuses (cfg : Params) : Instr → Bool
  | .tile _ _ row col _ => !tileInside row col && cfg.tileOob = .refuse
  | .tileXor _ _ row col _ => !tileInside row col && cfg.tileOob = .refuse
  | _ => false

/-- R112, R113: every instruction is its effect, then `last`, then the bookkeeping of R110; or the one refusal. -/
theorem exec_eq (i : Instr) (s : State) : exec i s =
    if refuses s.cfg i then .refused .tileOutsideCanvas
    else finishCdg s (updateLast i) (effect s.cfg i s.canvas) := by
  cases i with
  | tile color0 color1 row col bits =>
    cases h : tileInside row col <;> cases h' : s.cfg.tileOob <;>
      simp [exec, execTile, tileOutside, refuses, effect, h, h', updateLast]
  | tileXor color0 color1 row col bits =>
    cases h : tileInside row col <;> cases h' : s.cfg.tileOob <;>
      simp [exec, execTileXor, tileOutside, refuses, effect, h, h', updateLast]
  | memPreset _ _ => rfl
  | borderPreset _ => rfl
  | scrollPreset _ _ _ _ _ => rfl
  | scrollCopy _ _ _ _ => rfl
  | defTransp => rfl
  | colorsLow _ => rfl
  | colorsHigh _ => rfl

/-- R110, R114: an instruction that is not refused answers a next state, and this one. -/
theorem exec_next {i : Instr} {s : State} (h : refuses s.cfg i = false) : exec i s =
    .next ((s.setCanvas { (effect s.cfg i s.canvas).1 with last := updateLast i }).advance
      (effect s.cfg i s.canvas).2) := by
  rw [exec_eq, h]; rfl

/-- A next state of `exec` is the effect's. -/
theorem exec_eq_next {i : Instr} {s t : State} : exec i s = .next t ↔ refuses s.cfg i = false ∧
    t = (s.setCanvas { (effect s.cfg i s.canvas).1 with last := updateLast i }).advance
      (effect s.cfg i s.canvas).2 := by
  rw [exec_eq]
  cases refuses s.cfg i <;> simp [finishCdg, eq_comm]

/-- R110: what the bookkeeping of a packet leaves alone. -/
theorem consumed_advance (s : State) (cv : Canvas) (ch : Bool) : Consumed s ((s.setCanvas cv).advance ch) ch :=
  ⟨rfl, rfl, rfl, rfl, rfl, rfl, fun _ => rfl, rfl, rfl, rfl, rfl, rfl, rfl, rfl, rfl⟩

/-- R150: a position inside the canvas. -/
theorem tileInside_of_lt {row : BitVec 5} {col : BitVec 6} (hr : row.toNat < 18) (hc : col.toNat < 50) :
    tileInside row col = true := by
  simp [tileInside, hr, hc]

theorem refuses_skip {cfg : Params} (h : cfg.tileOob = .skip) (i : Instr) : refuses cfg i = false := by
  cases i <;> simp [refuses, h]

/-- R190: a scaled channel. -/
theorem scaleChannel_toNat (v : BitVec 4) : (scaleChannel v).toNat = 17 * v.toNat := by
  have := v.isLt
  simp only [scaleChannel, BitVec.toNat_mul, BitVec.toNat_setWidth, Config.chScale, BitVec.toNat_ofNat]
  omega

theorem unpack_scaled (c : Rgb12) : (unpack c).scaled := by
  simp [unpack, Rgb.scaled, scaleChannel_toNat]

/-- R110 to R113 on a whole record: the Canvas (with `last`) and the change bit. -/
def recordEffect (cfg : Params) (p : Record) (cv : Canvas) : Canvas × Bool :=
  match decodeRecord p with
  | .ok i => ({ (effect cfg i cv).1 with last := updateLast i }, (effect cfg i cv).2)
  | .error (.unusedCode _) => ({ cv with last := .none }, false)
  | .error _ => (cv, false)

/-- R282 on a whole record. -/
def recordRefuses (cfg : Params) (p : Record) : Bool :=
  match decodeRecord p with
  | .ok i => refuses cfg i
  | .error _ => false

@[simp] theorem setCanvas_self (s : State) : s.setCanvas s.canvas = s := rfl

/-- R110, R114: consuming a record replaces the Canvas by its effect and keeps the books, or refuses. -/
theorem consumeRecord_eq (p : Record) (s : State) : consumeRecord p s =
    if recordRefuses s.cfg p then .refused .tileOutsideCanvas
    else .next ((s.setCanvas (recordEffect s.cfg p s.canvas).1).advance (recordEffect s.cfg p s.canvas).2) := by
  unfold consumeRecord recordRefuses recordEffect
  cases decodeRecord p with
  | ok i => simp only [exec_eq]; rfl
  | error r => cases r <;> rfl

/-- A next state of `consume`: a stream is loaded, a packet is left, and the record's effect is applied. -/
theorem consume_eq_next {s t : State} : consume s = .next t ↔
    s.loaded = true ∧ s.reader.pktIdx < s.packets ∧
    recordRefuses s.cfg (s.buf.record s.reader.pktIdx) = false ∧
    t = (s.setCanvas (recordEffect s.cfg (s.buf.record s.reader.pktIdx) s.canvas).1).advance
      (recordEffect s.cfg (s.buf.record s.reader.pktIdx) s.canvas).2 := by
  unfold consume
  rw [consumeRecord_eq]
  cases hl : s.loaded with
  | false => simp
  | true =>
    by_cases hp : s.packets ≤ s.reader.pktIdx
    · simp [hp, Nat.not_lt.mpr hp]
    · cases hr : recordRefuses s.cfg (s.buf.record s.reader.pktIdx) <;>
        simp [hp, Nat.lt_of_not_le hp, eq_comm]

/-- A next state of `consume`, field by field: all but the Canvas, with `ch` its change bit. -/
theorem consume_facts {s t : State} (h : consume s = .next t) :
    s.loaded = true ∧ s.reader.pktIdx < s.packets ∧
    ∃ ch, t.reader = s.reader.consumed ch ∧ t.changed = (s.changed || ch) ∧ t.cfg = s.cfg ∧ t.loaded = true ∧
      t.buf = s.buf ∧ t.frame = s.frame ∧ t.pending = s.pending ∧ t.phase = s.phase ∧ t.replies = s.replies := by
  obtain ⟨hl, hp, -, ht⟩ := consume_eq_next.mp h
  generalize recordEffect s.cfg (s.buf.record s.reader.pktIdx) s.canvas = res at ht
  subst ht
  exact ⟨hl, hp, res.2, rfl, rfl, rfl, hl, rfl, rfl, rfl, rfl, rfl⟩

/-- The Canvas after a packet. -/
theorem consume_canvas {s t : State} (h : consume s = .next t) :
    t.canvas = (recordEffect s.cfg (s.buf.record s.reader.pktIdx) s.canvas).1 := by
  obtain ⟨-, -, -, ht⟩ := consume_eq_next.mp h
  generalize recordEffect s.cfg (s.buf.record s.reader.pktIdx) s.canvas = res at ht ⊢
  subst ht
  rfl

/-- Where a stream is loaded, a packet is left and no tile is refused, `consume` goes on. -/
theorem consume_next {s : State} (hl : s.loaded = true) (hp : s.reader.pktIdx < s.packets)
    (hr : recordRefuses s.cfg (s.buf.record s.reader.pktIdx) = false) :
    consume s = .next ((s.setCanvas (recordEffect s.cfg (s.buf.record s.reader.pktIdx) s.canvas).1).advance
      (recordEffect s.cfg (s.buf.record s.reader.pktIdx) s.canvas).2) :=
  consume_eq_next.mpr ⟨hl, hp, hr, rfl⟩

theorem recordRefuses_skip {cfg : Params} (h : cfg.tileOob = .skip) (p : Record) : recordRefuses cfg p = false := by
  unfold recordRefuses
  cases decodeRecord p <;> simp [refuses_skip h]

/-- The three other outcomes of `consume` are the two faults and the one refusal. -/
theorem consume_refused {s : State} {r : Refusal} (h : consume s = .refused r) : r = .tileOutsideCanvas := by
  unfold consume at h
  rw [consumeRecord_eq] at h
  split at h
  · simp at h
  · split at h
    · simp at h
    · split at h
      · simpa using h.symm
      · simp at h

/-- No fault where a stream is loaded and a packet is left. -/
theorem consume_no_fault {s : State} (hl : s.loaded = true) (hp : s.reader.pktIdx < s.packets) (f : Fault) :
    consume s ≠ .fault f := by
  unfold consume
  rw [consumeRecord_eq]
  simp only [hl, Bool.true_eq_false, if_false, Nat.not_le.mpr hp]
  split <;> simp

end Sys2Proof.Machine
end

