-- ==== Sys2Proof/Laws/Decode.lean ====
section
/-! SUPPORT. The encoding: bytes of an encoded record, and that no two rows of the table overlap. -/

namespace Sys2Proof

@[simp] theorem makeRecord_byte0 (b0 b1 : Byte) (d : Vector Byte 16) : (makeRecord b0 b1 d)[0] = b0 := by
  simp [makeRecord]

@[simp] theorem makeRecord_byte1 (b0 b1 : Byte) (d : Vector Byte 16) : (makeRecord b0 b1 d)[1] = b1 := by
  simp [makeRecord]

@[simp] theorem makeRecord_data (b0 b1 : Byte) (d : Vector Byte 16) (j : Fin 16) :
    dataByte (makeRecord b0 b1 d) j = d[j.val] := by
  have h1 : 4 + j.val ≠ 1 := by omega
  have h : 4 ≤ 4 + j.val ∧ 4 + j.val < 20 := by omega
  simp [dataByte, makeRecord, h, h1]

@[simp] theorem dataFrom_getElem (bs : List Byte) (j : Nat) (h : j < 16) : (dataFrom bs)[j] = bs.getD j 0#8 := by
  simp [dataFrom]

/-- R83: parity bytes are written 0. -/
theorem makeRecord_parity (b0 b1 : Byte) (d : Vector Byte 16) (j : Nat) (hj : j < 24) (h : j = 2 ∨ j = 3 ∨ 20 ≤ j) :
    (makeRecord b0 b1 d)[j] = 0#8 := by
  have h1 : j ≠ 0 := by omega
  have h2 : j ≠ 1 := by omega
  have h3 : ¬ (4 ≤ j ∧ j < 20) := by omega
  simp [makeRecord, h1, h2, h3]

/-- R92: a colour read back from its two data bytes. -/
theorem rgbOfBytes_encoded (c : Rgb12) : rgbOfBytes (rgbHighByte c) (rgbLowByte c) = c := by
  obtain ⟨r, g, b⟩ := c
  have h1 : ∀ r g : BitVec 4, ((r.setWidth 8 <<< 2) ||| (g.setWidth 8 >>> 2) : Byte).extractLsb' 2 4 = r := by decide
  have h2 : ∀ r g : BitVec 4, ((r.setWidth 8 <<< 2) ||| (g.setWidth 8 >>> 2) : Byte).extractLsb' 0 2 =
    g.extractLsb' 2 2 := by decide
  have h3 : ∀ g b : BitVec 4, (((g.setWidth 8 &&& 3#8) <<< 4) ||| b.setWidth 8 : Byte).extractLsb' 4 2 =
    g.extractLsb' 0 2 := by decide
  have h4 : ∀ g b : BitVec 4, (((g.setWidth 8 &&& 3#8) <<< 4) ||| b.setWidth 8 : Byte).extractLsb' 0 4 = b := by decide
  have h5 : ∀ g : BitVec 4, g.extractLsb' 2 2 ++ g.extractLsb' 0 2 = g := by decide
  simp only [rgbOfBytes, rgbHighByte, rgbLowByte, h1, h2, h3, h4]
  congr 1
  exact h5 g

/-- R90: the two fields of a scroll byte read back. -/
theorem scrollByte_fields (cmd : BitVec 2) (h : BitVec 3) (v : BitVec 4) :
    (scrollByte cmd h).extractLsb' 4 2 = cmd ∧ (scrollByte cmd h).setWidth 3 = h ∧
      (scrollByte cmd v).extractLsb' 4 2 = cmd ∧ (scrollByte cmd v).setWidth 4 = v := by
  have h1 : ∀ (c : BitVec 2) (o : BitVec 3), (scrollByte c o).extractLsb' 4 2 = c ∧ (scrollByte c o).setWidth 3 = o := by
    unfold scrollByte; decide
  have h2 : ∀ (c : BitVec 2) (o : BitVec 4), (scrollByte c o).extractLsb' 4 2 = c ∧ (scrollByte c o).setWidth 4 = o := by
    unfold scrollByte; decide
  exact ⟨(h1 cmd h).1, (h1 cmd h).2, (h2 cmd v).1, (h2 cmd v).2⟩

/-! The fields as 30_encoding.md writes them, with masks and shifts over the bytes of the record. -/

theorem nibbleField_mask (p : Record) (j : Fin 16) : (nibbleField p j).setWidth 8 = p[4 + j.val] &&& 0x0F#8 := by
  have h : ∀ b : Byte, (b.setWidth 4).setWidth 8 = b &&& 0x0F#8 := by decide
  exact h _

theorem rowField_mask (p : Record) : (rowField p).setWidth 8 = p[6] &&& 0x1F#8 := by
  have h : ∀ b : Byte, (b.setWidth 5).setWidth 8 = b &&& 0x1F#8 := by decide
  exact h _

theorem colField_mask (p : Record) : (colField p).setWidth 8 = p[7] &&& 0x3F#8 := by
  have h : ∀ b : Byte, (b.setWidth 6).setWidth 8 = b &&& 0x3F#8 := by decide
  exact h _

theorem tileRows_mask (p : Record) (i : Fin 12) : ((tileRows p)[i]).setWidth 8 = p[8 + i.val] &&& 0x3F#8 := by
  have h : ∀ b : Byte, (b.setWidth 6).setWidth 8 = b &&& 0x3F#8 := by decide
  simp only [tileRows, dataByte, Fin.getElem_fin, Vector.getElem_ofFn, h]
  congr 2; omega

theorem scrollCmdField_mask (p : Record) (j : Fin 16) :
    (scrollCmdField p j).setWidth 8 = (p[4 + j.val] >>> 4) &&& 0x03#8 := by
  have h : ∀ b : Byte, (b.extractLsb' 4 2).setWidth 8 = (b >>> 4) &&& 0x03#8 := by decide
  exact h _

theorem hOffField_mask (p : Record) : (hOffField p).setWidth 8 = p[5] &&& 0x07#8 := by
  have h : ∀ b : Byte, (b.setWidth 3).setWidth 8 = b &&& 0x07#8 := by decide
  exact h _

theorem vOffField_mask (p : Record) : (vOffField p).setWidth 8 = p[6] &&& 0x0F#8 := by
  have h : ∀ b : Byte, (b.setWidth 4).setWidth 8 = b &&& 0x0F#8 := by decide
  exact h _

/-- R92: the three channels of a colour. -/
theorem rgbOfBytes_mask (a b : Byte) :
    (rgbOfBytes a b).r.setWidth 8 = (a >>> 2) &&& 0x0F#8 ∧
      (rgbOfBytes a b).g.setWidth 8 = ((a &&& 0x03#8) <<< 2) ||| ((b >>> 4) &&& 0x03#8) ∧
      (rgbOfBytes a b).b.setWidth 8 = b &&& 0x0F#8 := by
  have h1 : ∀ b : Byte, (b.extractLsb' 2 4).setWidth 8 = (b >>> 2) &&& 0x0F#8 := by decide
  have h2 : ∀ x y : BitVec 2, (x ++ y).setWidth 8 = (x.setWidth 8 <<< 2) ||| y.setWidth 8 := by decide
  have h3 : ∀ a : Byte, (a.extractLsb' 0 2).setWidth 8 = a &&& 0x03#8 := by decide
  have h4 : ∀ b : Byte, (b.extractLsb' 4 2).setWidth 8 = (b >>> 4) &&& 0x03#8 := by decide
  have h5 : ∀ b : Byte, (b.extractLsb' 0 4).setWidth 8 = b &&& 0x0F#8 := by decide
  exact ⟨h1 a, by rw [← h3, ← h4]; exact h2 _ _, h5 b⟩

/-- R81, R82: the header fields as the spec writes them, with a mask. -/
theorem cmdField_eq_iff (p : Record) : cmdField p = Config.cdgCommand ↔ p[0] &&& 0x3F#8 = 0x09#8 := by
  have h : ∀ b : Byte, b.setWidth 6 = Config.cdgCommand ↔ b &&& 0x3F#8 = 0x09#8 := by decide
  exact h p[0]

theorem instrField_toNat (p : Record) : (instrField p).toNat = (p[1] &&& 0x3F#8).toNat := by
  have h : ∀ b : Byte, (b.setWidth 6).toNat = (b &&& 0x3F#8).toNat := by decide
  exact h p[1]

/-- No header word matches two rows of the opcode table. -/
theorem opcodeRows_disjoint : opcodeRows.Pairwise fun a b => a.disjoint b = true := by decide

/-- R80: the bytes of a record are read as that record. -/
@[simp] theorem recordOfBytes_toList (p : Record) : recordOfBytes p.toList = some p := by
  simp [recordOfBytes]; rfl

/-- What a decoded instruction says of its record: command 9 and the instruction's own code (R81, R82, R95). -/
theorem decodeRecord_ok {p : Record} {i : Instr} (h : decodeRecord p = .ok i) :
    cmdField p = Config.cdgCommand ∧ instrField p = i.code := by
  unfold decodeRecord at h
  split at h
  · simp at h
  · rename_i hc
    refine ⟨by simpa using hc, ?_⟩
    split at h <;> (try simp at h) <;> subst h <;> (rename_i hn; apply BitVec.eq_of_toNat_eq; rw [hn]; rfl)

end Sys2Proof
end

