-- ==== Sys2Proof/Laws/Memory.lean ====
section
/-! SUPPORT. Byte-addressed memory: every operation keeps the canonical form, a byte string read back is the
byte string, a write is read back at its address and changes no other byte. -/

namespace Sys2Proof.Machine
namespace Memory

/-- A listed cell at address `a` or later, as `put` and `cellsFrom` leave them. -/
theorem rising_cons (x : Host.Cell) (l : List Host.Cell) :
    rising (x :: l) = true ↔ (∀ y ∈ l, x.1 < y.1) ∧ rising l = true := by
  induction l generalizing x with
  | nil => simp [rising]
  | cons y rest ih =>
    have hy := ih y
    simp only [rising, Bool.and_eq_true, decide_eq_true_eq, List.mem_cons, forall_eq_or_imp]
    constructor
    · rintro ⟨h1, h2⟩
      exact ⟨⟨h1, fun z hz => lt_trans h1 ((hy.mp h2).1 z hz)⟩, h2⟩
    · rintro ⟨⟨h1, _⟩, h2⟩
      exact ⟨h1, h2⟩

theorem wf_iff (m : Memory) : m.wf = true ↔
    rising m.cells = true ∧ ∀ x ∈ m.cells, x.1 < m.size ∧ x.2 ≠ background := by
  simp [wf, List.all_eq_true]

@[simp] theorem empty_size : empty.size = 0 := rfl
@[simp] theorem empty_cells : empty.cells = [] := rfl
@[simp] theorem empty_wf : empty.wf = true := rfl
@[simp] theorem empty_packets : empty.packets = 0 := rfl

/-! ## A byte string as a memory -/

@[simp] theorem ofBytes_size (bs : List Byte) : (ofBytes bs).size = bs.length := rfl

theorem mem_cellsFrom {a : Nat} {bs : List Byte} {x : Host.Cell} (h : x ∈ cellsFrom a bs) :
    a ≤ x.1 ∧ x.1 < a + bs.length ∧ x.2 ≠ background := by
  induction bs generalizing a with
  | nil => simp [cellsFrom] at h
  | cons b rest ih =>
    simp only [cellsFrom] at h
    split at h
    · have := ih h; simp only [List.length_cons]; exact ⟨by omega, by omega, this.2.2⟩
    · rcases List.mem_cons.mp h with rfl | h
      · exact ⟨le_refl _, by simp, ‹_›⟩
      · have := ih h; simp only [List.length_cons]; exact ⟨by omega, by omega, this.2.2⟩

theorem rising_cellsFrom (a : Nat) (bs : List Byte) : rising (cellsFrom a bs) = true := by
  induction bs generalizing a with
  | nil => rfl
  | cons b rest ih =>
    simp only [cellsFrom]
    split
    · exact ih (a + 1)
    · exact (rising_cons _ _).mpr ⟨fun y hy => by have := (mem_cellsFrom hy).1; simp only; omega, ih (a + 1)⟩

/-- LOAD's buffer and Snapshot's frame are in canonical form. -/
@[simp] theorem ofBytes_wf (bs : List Byte) : (ofBytes bs).wf = true :=
  (wf_iff _).mpr ⟨rising_cellsFrom 0 bs, fun x hx => by have := mem_cellsFrom hx; simp [ofBytes] at this ⊢; tauto⟩

theorem lookup_cellsFrom_before {a k : Nat} {bs : List Byte} (h : k < a) : lookup k (cellsFrom a bs) = background := by
  induction bs generalizing a with
  | nil => rfl
  | cons b rest ih =>
    simp only [cellsFrom]
    split
    · exact ih (by omega)
    · simp only [lookup]
      rw [if_neg (by omega)]
      exact ih (by omega)

theorem lookup_cellsFrom (a i : Nat) (bs : List Byte) :
    lookup (a + i) (cellsFrom a bs) = bs.getD i background := by
  induction bs generalizing a i with
  | nil => simp [cellsFrom, lookup]
  | cons b rest ih =>
    cases i with
    | zero =>
      simp only [cellsFrom, Nat.add_zero, List.getD_cons_zero]
      split
      · rw [lookup_cellsFrom_before (by omega)]; exact (‹b = background›).symm
      · simp [lookup]
    | succ i =>
      have e : a + (i + 1) = (a + 1) + i := by omega
      simp only [cellsFrom, List.getD_cons_succ]
      split
      · rw [e]; exact ih (a + 1) i
      · simp only [lookup]
        rw [if_neg (by omega), e]; exact ih (a + 1) i

/-- R17: reading a byte of a memory made from a byte string. -/
@[simp] theorem read_ofBytes (bs : List Byte) (a : Nat) : (ofBytes bs).read a = bs[a]? := by
  have h := lookup_cellsFrom 0 a bs
  simp only [Nat.zero_add] at h
  simp only [read, ofBytes_size]
  by_cases hlt : a < bs.length
  · simp [ofBytes, h, List.getD, hlt]
  · simp [hlt]

theorem toBytes_ofBytes (bs : List Byte) : (ofBytes bs).toBytes = bs := by
  apply List.ext_getElem
  · simp [toBytes]
  · intro i h1 h2
    have := lookup_cellsFrom 0 i bs
    simp only [Nat.zero_add] at this
    simp [toBytes, ofBytes, this, List.getD, List.getElem?_eq_getElem h2]

/-! ## Writes -/

@[simp] theorem write_size (m : Memory) (a : Nat) (b : Byte) : (m.write a b).size = m.size := by
  unfold write; split <;> rfl

@[simp] theorem writeBytes_size (m : Memory) (a : Nat) (bs : List Byte) : (m.writeBytes a bs).size = m.size := by
  induction bs generalizing m a with
  | nil => rfl
  | cons b rest ih => simp [writeBytes, ih]

@[simp] theorem grow_size (m : Memory) (n : Nat) : (m.grow n).size = max m.size n := rfl

theorem lookup_put_other {a k : Nat} (b : Byte) (l : List Host.Cell) (h : k ≠ a) :
    lookup k (put a b l) = lookup k l := by
  induction l with
  | nil => unfold put; split <;> simp [lookup, Ne.symm h]
  | cons x rest ih =>
    simp only [put]
    split
    · split <;> simp [lookup, Ne.symm h]
    · split
      · rename_i hx
        split <;> simp [lookup, ← hx, Ne.symm h]
      · simp [lookup, ih]

theorem lookup_of_lt {a : Nat} {l : List Host.Cell} (h : ∀ y ∈ l, a < y.1) : lookup a l = background := by
  induction l with
  | nil => rfl
  | cons x rest ih =>
    have := h x (by simp)
    simp only [lookup]
    rw [if_neg (by omega)]
    exact ih fun y hy => h y (by simp [hy])

theorem lookup_put_same {a : Nat} (b : Byte) {l : List Host.Cell} (hl : rising l = true) :
    lookup a (put a b l) = b := by
  induction l with
  | nil => unfold put; split <;> simp_all [lookup]
  | cons x rest ih =>
    have hr := (rising_cons x rest).mp hl
    simp only [put]
    split
    · rename_i hlt
      split
      · rename_i hb
        rw [hb]
        exact lookup_of_lt fun y hy => by
          rcases List.mem_cons.mp hy with rfl | hy
          · exact hlt
          · exact lt_trans hlt (hr.1 y hy)
      · simp [lookup]
    · split
      · rename_i hx
        split
        · rename_i hb
          rw [hb]
          exact lookup_of_lt fun y hy => by rw [hx]; exact hr.1 y hy
        · simp [lookup]
      · rename_i hx
        simp only [lookup]
        rw [if_neg (Ne.symm hx)]
        exact ih hr.2

theorem mem_put {a : Nat} {b : Byte} {l : List Host.Cell} {y : Host.Cell} (h : y ∈ put a b l) :
    (y = (a, b) ∧ b ≠ background) ∨ y ∈ l := by
  induction l with
  | nil =>
    unfold put at h
    split at h
    · simp at h
    · exact .inl ⟨by simpa using h, ‹_›⟩
  | cons x rest ih =>
    simp only [put] at h
    split at h
    · split at h
      · exact .inr h
      · rcases List.mem_cons.mp h with rfl | h
        · exact .inl ⟨rfl, ‹_›⟩
        · exact .inr h
    · split at h
      · split at h
        · exact .inr (List.mem_cons_of_mem _ h)
        · rcases List.mem_cons.mp h with rfl | h
          · exact .inl ⟨rfl, ‹_›⟩
          · exact .inr (List.mem_cons_of_mem _ h)
      · rcases List.mem_cons.mp h with rfl | h
        · exact .inr (by simp)
        · rcases ih h with h | h
          · exact .inl h
          · exact .inr (List.mem_cons_of_mem _ h)

theorem rising_put {a : Nat} {b : Byte} {l : List Host.Cell} (hl : rising l = true) : rising (put a b l) = true := by
  induction l with
  | nil => unfold put; split <;> rfl
  | cons x rest ih =>
    have hr := (rising_cons x rest).mp hl
    simp only [put]
    split
    · rename_i hlt
      split
      · exact hl
      · refine (rising_cons _ _).mpr ⟨fun y hy => ?_, hl⟩
        rcases List.mem_cons.mp hy with rfl | hy
        · exact hlt
        · exact lt_trans hlt (hr.1 y hy)
    · split
      · rename_i hx
        split
        · exact hr.2
        · exact (rising_cons _ _).mpr ⟨fun y hy => by rw [hx]; exact hr.1 y hy, hr.2⟩
      · refine (rising_cons _ _).mpr ⟨fun y hy => ?_, ih hr.2⟩
        rcases mem_put hy with ⟨rfl, _⟩ | hy
        · simp only; omega
        · exact hr.1 y hy

theorem write_wf {m : Memory} (h : m.wf = true) (a : Nat) (b : Byte) : (m.write a b).wf = true := by
  have hm := (wf_iff m).mp h
  unfold write
  split
  · rename_i ha
    refine (wf_iff _).mpr ⟨rising_put hm.1, fun y hy => ?_⟩
    rcases mem_put hy with ⟨rfl, hb⟩ | hy
    · exact ⟨ha, hb⟩
    · exact hm.2 y hy
  · exact h

theorem writeBytes_wf {m : Memory} (h : m.wf = true) (a : Nat) (bs : List Byte) : (m.writeBytes a bs).wf = true := by
  induction bs generalizing m a with
  | nil => exact h
  | cons b rest ih => exact ih (write_wf h a b) (a + 1)

theorem grow_wf {m : Memory} (h : m.wf = true) (n : Nat) : (m.grow n).wf = true := by
  have hm := (wf_iff m).mp h
  exact (wf_iff _).mpr ⟨hm.1, fun y hy => ⟨lt_of_lt_of_le (hm.2 y hy).1 (le_max_left _ _), (hm.2 y hy).2⟩⟩

theorem storeRecord_wf {m : Memory} (h : m.wf = true) (k : Nat) (p : Record) : (m.storeRecord k p).wf = true :=
  writeBytes_wf (grow_wf h _) _ _

/-- A written byte is read back. -/
theorem read_write_same {m : Memory} (h : m.wf = true) {a : Nat} (ha : a < m.size) (b : Byte) :
    (m.write a b).read a = some b := by
  simp [read, write, ha, lookup_put_same b ((wf_iff m).mp h).1]

/-- A write leaves every other byte alone. -/
theorem read_write_other (m : Memory) {a k : Nat} (hk : k ≠ a) (b : Byte) : (m.write a b).read k = m.read k := by
  unfold read write
  split <;> simp [lookup_put_other b _ hk]

theorem lookup_write_other (m : Memory) {a k : Nat} (hk : k ≠ a) (b : Byte) :
    lookup k (m.write a b).cells = lookup k m.cells := by
  unfold write
  split
  · exact lookup_put_other b _ hk
  · rfl

theorem lookup_writeBytes_before (m : Memory) {a k : Nat} (hk : k < a) (bs : List Byte) :
    lookup k (m.writeBytes a bs).cells = lookup k m.cells := by
  induction bs generalizing m a with
  | nil => rfl
  | cons b rest ih =>
    simp only [writeBytes]
    rw [ih _ (by omega), lookup_write_other m (by omega)]

theorem lookup_writeBytes {m : Memory} (h : m.wf = true) (a i : Nat) (bs : List Byte) (hi : i < bs.length)
    (hs : a + bs.length ≤ m.size) : lookup (a + i) (m.writeBytes a bs).cells = bs[i] := by
  induction bs generalizing m a i with
  | nil => simp at hi
  | cons b rest ih =>
    simp only [List.length_cons] at hi hs
    simp only [writeBytes]
    cases i with
    | zero =>
      rw [lookup_writeBytes_before _ (by omega)]
      have ha : a < m.size := by omega
      simp [write, ha, lookup_put_same b ((wf_iff m).mp h).1]
    | succ i =>
      have e : a + (i + 1) = (a + 1) + i := by omega
      rw [e]
      exact ih (write_wf h a b) (a + 1) i (by omega) (by simp; omega)

/-- The staged record is the packet that is fetched. -/
theorem record_storeRecord {m : Memory} (h : m.wf = true) (k : Nat) (p : Record) : (m.storeRecord k p).record k = p := by
  apply Vector.ext
  intro i hi
  have := lookup_writeBytes (grow_wf h (24 * (k + 1))) (24 * k) i p.toList (by simpa using hi)
    (by simp; omega)
  simpa [record, storeRecord] using this

theorem packets_storeRecord (m : Memory) (k : Nat) (p : Record) : k < (m.storeRecord k p).packets := by
  simp [packets, storeRecord]
  omega

/-- R19, R61: the 24 bytes from `24*k` on are packet `k`, and `k` is below `S.N`. -/
theorem readBytes_record {m : Memory} {k : Nat} {bs : List Byte} (h : m.readBytes (24 * k) 24 = some bs) :
    k < m.packets ∧ bs = (m.record k).toList := by
  by_cases hl : 24 * k + 24 ≤ m.size
  · simp only [readBytes, if_pos hl, Option.some.injEq] at h
    refine ⟨by simp only [packets, Config.pktBytes]; omega, ?_⟩
    subst h
    apply List.ext_getElem
    · simp
    · intro i h1 h2
      simp [record]
  · simp [readBytes, if_neg hl] at h

theorem lookup_of_unlisted {a : Nat} {l : List Host.Cell} (h : ∀ x ∈ l, x.1 ≠ a) : lookup a l = background := by
  induction l with
  | nil => rfl
  | cons x rest ih =>
    simp only [lookup]
    rw [if_neg (h x (by simp))]
    exact ih fun y hy => h y (by simp [hy])

/-! ## Equal bytes, equal memories -/

theorem lookup_mem {l : List Host.Cell} (hl : rising l = true) {x : Host.Cell} (h : x ∈ l) : lookup x.1 l = x.2 := by
  induction l with
  | nil => simp at h
  | cons y rest ih =>
    have hr := (rising_cons y rest).mp hl
    rcases List.mem_cons.mp h with rfl | h
    · simp [lookup]
    · have := hr.1 x h
      simp only [lookup]
      rw [if_neg (by omega)]
      exact ih hr.2 h

theorem cells_ext {l k : List Host.Cell} (hl : rising l = true) (hk : rising k = true)
    (bl : ∀ x ∈ l, x.2 ≠ background) (bk : ∀ x ∈ k, x.2 ≠ background)
    (e : ∀ a, lookup a l = lookup a k) : l = k := by
  induction l generalizing k with
  | nil =>
    cases k with
    | nil => rfl
    | cons y rest =>
      have := e y.1
      rw [lookup_mem hk (by simp)] at this
      exact absurd this.symm (bk y (by simp))
  | cons x rest ih =>
    have hr := (rising_cons x rest).mp hl
    cases k with
    | nil =>
      have := e x.1
      rw [lookup_mem hl (by simp)] at this
      exact absurd this (bl x (by simp))
    | cons y rest' =>
      have hr' := (rising_cons y rest').mp hk
      have hxy : x.1 = y.1 := by
        rcases lt_trichotomy x.1 y.1 with h | h | h
        · have h1 := e x.1
          rw [lookup_mem hl (by simp), lookup_of_lt (l := y :: rest') fun z hz => by
            rcases List.mem_cons.mp hz with rfl | hz
            · exact h
            · exact lt_trans h (hr'.1 z hz)] at h1
          exact absurd h1 (bl x (by simp))
        · exact h
        · have h1 := e y.1
          rw [lookup_mem hk (by simp), lookup_of_lt (l := x :: rest) fun z hz => by
            rcases List.mem_cons.mp hz with rfl | hz
            · exact h
            · exact lt_trans h (hr.1 z hz)] at h1
          exact absurd h1.symm (bk y (by simp))
      have hv : x.2 = y.2 := by
        have h1 := e x.1
        rwa [lookup_mem hl (by simp), hxy, lookup_mem hk (by simp)] at h1
      have hrest : rest = rest' := ih hr.2 hr'.2 (fun z hz => bl z (by simp [hz])) (fun z hz => bk z (by simp [hz]))
        fun a => by
          by_cases ha : a = x.1
          · subst ha
            rw [lookup_of_lt hr.1, hxy, lookup_of_lt hr'.1]
          · have := e a
            simp only [lookup] at this
            rwa [if_neg (Ne.symm ha), if_neg (by rw [← hxy]; exact Ne.symm ha)] at this
      rw [hrest, Prod.ext hxy hv]

/-- Two memories in canonical form with the same bytes are equal data. -/
theorem ext_of_read {m n : Memory} (hm : m.wf = true) (hn : n.wf = true) (hs : m.size = n.size)
    (e : ∀ a, m.read a = n.read a) : m = n := by
  obtain ⟨rm, bm⟩ := (wf_iff m).mp hm
  obtain ⟨rn, bn⟩ := (wf_iff n).mp hn
  have hl : ∀ a, lookup a m.cells = lookup a n.cells := fun a => by
    by_cases ha : a < m.size
    · have := e a
      simpa [read, ha, hs ▸ ha] using this
    · have h1 : lookup a m.cells = background := lookup_of_unlisted fun x hx hxa => ha (hxa ▸ (bm x hx).1)
      have h2 : lookup a n.cells = background := lookup_of_unlisted fun x hx hxa => ha (hs ▸ hxa ▸ (bn x hx).1)
      rw [h1, h2]
  have hc : m.cells = n.cells := cells_ext rm rn (fun x hx => (bm x hx).2) (fun x hx => (bn x hx).2) hl
  cases m; cases n
  simp_all

end Memory
end Sys2Proof.Machine
end

