-- ==== Sys2Proof/Laws/Frame.lean ====
section
/-! SUPPORT. The frame read byte by byte, and its size. -/

namespace Sys2Proof.Machine

@[simp] theorem bitmap_length (cv : Canvas) : (bitmap cv).length = 55296 := by
  unfold bitmap; rw [List.length_map, List.length_finRange]

theorem bitmap_getElem (cv : Canvas) (x : Fin 288) (y : Fin 192) :
    (bitmap cv)[y.val * 288 + x.val]? = some ((visible cv x y).setWidth 8) := by
  have hb : y.val * 288 + x.val < 55296 := by omega
  have hx : (⟨(y.val * 288 + x.val) % 288, Nat.mod_lt _ (by decide)⟩ : Fin 288) = x := by ext; simp only; omega
  have hy : (⟨(y.val * 288 + x.val) / 288, Nat.div_lt_of_lt_mul hb⟩ : Fin 192) = y := by ext; simp only; omega
  have hl : y.val * 288 + x.val < (List.finRange Config.bitmapBytes).length := by
    rw [List.length_finRange]; exact hb
  unfold bitmap
  rw [List.getElem?_map, List.getElem?_eq_getElem hl, List.getElem_finRange, Option.map_some]
  exact congrArg some (congrArg₂ (fun a b => (visible cv a b).setWidth 8) hx hy)

@[simp] theorem snapshot_wf (p : Params) (cv : Canvas) : (snapshot p cv).wf = true := Memory.ofBytes_wf _

/-- R210: a frame has exactly `CDG_IMAGE_SIZE` bytes. -/
@[simp] theorem snapshot_size (p : Params) (cv : Canvas) : (snapshot p cv).size = p.imageSize := by
  simp [snapshot, Params.imageSize]

/-- R212: a byte of the bitmap part. -/
theorem snapshot_read_bitmap (p : Params) (cv : Canvas) (x : Fin 288) (y : Fin 192) :
    (snapshot p cv).read (y.val * 288 + x.val) = some ((visible cv x y).setWidth 8) := by
  have hlt : y.val * 288 + x.val < (bitmap cv).length := by rw [bitmap_length]; omega
  rw [snapshot, Memory.read_ofBytes, List.getElem?_append_left hlt, bitmap_getElem]

/-- R213: a byte of the palette part. -/
theorem snapshot_read_palette (p : Params) (cv : Canvas) (k : Nat) :
    (snapshot p cv).read (55296 + k) = (p.paletteLayout[k]?).map (serialByte cv.pal) := by
  rw [snapshot, Memory.read_ofBytes, List.getElem?_append_right (by simp)]
  simp

/-- R213, D4: the entries of the default layout. -/
theorem rgb888x16_getElem (i : Fin 16) (ch : Fin 3) :
    PaletteLayout.rgb888x16[3 * i.val + ch.val]? =
      some (.channel i (match ch with | 0 => .red | 1 => .green | 2 => .blue)) := by
  revert i ch
  decide

theorem rgb888x16_length : PaletteLayout.rgb888x16.length = 48 := by decide

end Sys2Proof.Machine
end

