-- ==== Sys2Proof/Laws/Replay.lean ====
section
/-! SUPPORT. Packets consumed one after another (R116): the loop unrolled at its end, what it leaves alone, and that
it reads nothing but parameters, stream, Canvas and cursor. -/

namespace Sys2Proof.Machine

theorem consumeMany_succ (n : Nat) (s : State) : consumeMany (n + 1) s = andThen (consumeMany n s) consume := by
  induction n generalizing s with
  | zero => simp only [consumeMany, andThen_next]; cases consume s <;> rfl
  | succ n ih =>
    rw [consumeMany]
    conv_rhs => rw [consumeMany]
    rw [andThen_assoc]
    congr 1
    funext t
    exact ih t

/-- Two states that consuming packets does not tell apart. -/
def SameReplay (s t : State) : Prop :=
  t.cfg = s.cfg ∧ t.loaded = s.loaded ∧ t.buf = s.buf ∧ t.canvas = s.canvas ∧ t.reader.pktIdx = s.reader.pktIdx ∧
    t.reader.lastChange = s.reader.lastChange

theorem consume_sameReplay {s s' t : State} (e : SameReplay s s') (h : consume s = .next t) :
    ∃ t', consume s' = .next t' ∧ SameReplay t t' := by
  obtain ⟨e1, e2, e3, e4, e5, e6⟩ := e
  obtain ⟨hl, hp, hr, ht⟩ := consume_eq_next.mp h
  have hpk : s'.packets = s.packets := by simp only [State.packets, e3]
  refine ⟨_, consume_next (by rw [e2, hl]) (by rw [e5, hpk]; exact hp) (by rw [e1, e3, e5]; exact hr), ?_⟩
  rw [e1, e3, e4, e5]
  generalize recordEffect s.cfg (s.buf.record s.reader.pktIdx) s.canvas = res at ht ⊢
  subst ht
  exact ⟨e1, e2, e3, rfl, by simp [e5], by simp [e5, e6]⟩

theorem consumeMany_sameReplay (n : Nat) {s s' t : State} (e : SameReplay s s') (h : consumeMany n s = .next t) :
    ∃ t', consumeMany n s' = .next t' ∧ SameReplay t t' := by
  induction n generalizing s s' with
  | zero => simp only [consumeMany, Host.Outcome.next.injEq] at h; subst h; exact ⟨s', rfl, e⟩
  | succ n ih =>
    obtain ⟨u, hu, ht⟩ := andThen_eq_next h
    obtain ⟨u', hu', e'⟩ := consume_sameReplay e hu
    obtain ⟨t', ht', e''⟩ := ih e' ht
    exact ⟨t', by rw [consumeMany, hu']; exact ht', e''⟩

/-- `n` packets advance the cursor by `n` and leave alone what one packet leaves alone. -/
theorem consumeMany_facts (n : Nat) {s t : State} (h : consumeMany n s = .next t) :
    t.reader.pktIdx = s.reader.pktIdx + n ∧ t.reader.curIdx = s.reader.curIdx ∧
    t.reader.nextIdx = s.reader.nextIdx ∧ t.reader.eos = s.reader.eos ∧ t.reader.started = s.reader.started ∧
    t.cfg = s.cfg ∧ t.loaded = s.loaded ∧ t.buf = s.buf ∧ t.frame = s.frame ∧ t.pending = s.pending ∧
    t.phase = s.phase ∧ t.replies = s.replies := by
  induction n generalizing s with
  | zero => simp only [consumeMany, Host.Outcome.next.injEq] at h; subst h; simp
  | succ n ih =>
    obtain ⟨u, hu, ht⟩ := andThen_eq_next h
    obtain ⟨hl, -, ch, h1, -, h3, h4, h5, h6, h7, h8, h9⟩ := consume_facts hu
    obtain ⟨k1, k2, k3, k4, k5, k6, k7, k8, k9, k10, k11, k12⟩ := ih ht
    rw [h1] at k1 k2 k3 k4 k5
    refine ⟨by rw [k1, consumed_pktIdx]; omega, k2, k3, k4, k5, k6.trans h3, by rw [k7, h4, hl], k8.trans h5,
      k9.trans h6, k10.trans h7, k11.trans h8, k12.trans h9⟩

/-- R301: the fresh start does not see what a rewind makes fresh. -/
theorem sameReplay_rewound {s t : State} (hc : t.cfg = s.cfg) (hl : t.loaded = s.loaded) (hb : t.buf = s.buf) :
    SameReplay s.rewound t.rewound := ⟨hc, hl, hb, rfl, rfl, rfl⟩

/-- The replay property depends only on what consuming packets reads. -/
theorem replayed_of_sameReplay {s t : State} (h : Replayed s) (e : SameReplay s t) : Replayed t := by
  obtain ⟨u, hu, h1, h2⟩ := h
  obtain ⟨e1, e2, e3, e4, e5, e6⟩ := e
  obtain ⟨u', hu', k⟩ := consumeMany_sameReplay s.reader.pktIdx (sameReplay_rewound e1 e2 e3) hu
  exact ⟨u', by rw [e5]; exact hu', by rw [k.2.2.2.1, h1, e4], by rw [k.2.2.2.2.2, h2, e6]⟩

end Sys2Proof.Machine
end

