-- ==== Sys2Proof/Laws/Step.lean ====
section
/-! SUPPORT. Once for all: what a step can do. Invariants are proved from `step_cases`, `begin_cases` and
`afterPacket_cases`, not by unfolding the step. -/

namespace Sys2Proof.Machine

/-- A next state of `step`: the block stands still; a transaction begins; a loop is at its end test; or one packet is
consumed and the loop's test after it is made. -/
theorem step_cases {s t : State} (h : step s = .next t) :
    (s.phase = .idle ∧ s.pending = [] ∧ t = s) ∨
    (∃ tr rest, s.phase = .idle ∧ s.pending = tr :: rest ∧ t = begin tr (s.setPending rest)) ∨
    (s.phase = .baseline ∧ s.reader.pktIdx = s.packets ∧ t = baselineEnd s) ∨
    (s.phase = .frameLoop ∧ s.reader.pktIdx = s.packets ∧ t = moveEof s) ∨
    (∃ target, s.phase = .seekTo target ∧ target ≤ s.reader.pktIdx ∧ t = seekDone target s) ∨
    (∃ u, wantsPacket s = true ∧ consume s = .next u ∧ t = afterPacket u) := by
  unfold step runPhase at h
  split at h
  · rename_i hw
    obtain ⟨u, hu, ht⟩ := andThen_eq_next h
    exact .inr (.inr (.inr (.inr (.inr ⟨u, hw, hu, by simpa using ht.symm⟩))))
  · rename_i hw
    simp only [Host.Outcome.next.injEq] at h
    subst h
    cases hp : s.phase with
    | idle =>
      cases hq : s.pending with
      | nil => exact .inl ⟨rfl, rfl, by simp [withoutPacket, hp, hq]⟩
      | cons tr rest => exact .inr (.inl ⟨tr, rest, rfl, rfl, by simp [withoutPacket, hp, hq]⟩)
    | baseline =>
      exact .inr (.inr (.inl ⟨rfl, by simpa [wantsPacket, hp] using hw, by simp [withoutPacket, hp]⟩))
    | frameLoop =>
      exact .inr (.inr (.inr (.inl ⟨rfl, by simpa [wantsPacket, hp] using hw, by simp [withoutPacket, hp]⟩)))
    | seekTo target =>
      exact .inr (.inr (.inr (.inr (.inl
        ⟨target, rfl, by simpa [wantsPacket, hp] using hw, by simp [withoutPacket, hp]⟩))))

/-- A transaction begins: it is done at once with its answer, or MOVE or SEEK enters its loop. -/
theorem begin_cases (tr : Transaction) (s : State) :
    (∃ bytes, tr = .load bytes ∧ begin tr s = (loadStream bytes s).reply .done) ∨
    (tr = .unload ∧ begin tr s = (unloadStream s).reply .done) ∨
    (tr = .move ∧ s.loaded = true ∧ s.reader.started = false ∧
      begin tr s = { s with reader := { s.reader with started := true }, changed := false, phase := .baseline }) ∨
    (tr = .move ∧ s.loaded = true ∧ s.reader.started = true ∧ begin tr s = enterFrameLoop s) ∨
    (∃ ms, tr = .seek ms ∧ s.loaded = true ∧ ms ≤ totalMs s ∧ msToPkt ms < s.reader.pktIdx ∧
      begin tr s = s.rewound.setPhase (.seekTo (msToPkt ms))) ∨
    (∃ ms, tr = .seek ms ∧ s.loaded = true ∧ ms ≤ totalMs s ∧ s.reader.pktIdx ≤ msToPkt ms ∧
      begin tr s = s.setPhase (.seekTo (msToPkt ms))) ∨
    (∃ r, begin tr s = s.reply r) := by
  cases tr with
  | load bytes => exact .inl ⟨bytes, rfl, rfl⟩
  | unload => exact .inr (.inl ⟨rfl, rfl⟩)
  | move =>
    cases hl : s.loaded with
    | false => exact .inr (.inr (.inr (.inr (.inr (.inr ⟨_, by simp [begin, beginMove, hl]; rfl⟩)))))
    | true =>
      cases hs : s.reader.started with
      | false => exact .inr (.inr (.inl ⟨rfl, rfl, rfl, by simp [begin, beginMove, hl, hs]⟩))
      | true => exact .inr (.inr (.inr (.inl ⟨rfl, rfl, rfl, by simp [begin, beginMove, hl, hs]⟩)))
  | seek ms =>
    by_cases hf : s.loaded = false ∨ totalMs s < ms
    · exact .inr (.inr (.inr (.inr (.inr (.inr ⟨_, by simp only [begin, beginSeek, if_pos hf]; rfl⟩)))))
    · have hl : s.loaded = true := by simpa using fun h => hf (.inl h)
      have hm : ms ≤ totalMs s := Nat.le_of_not_lt fun h => hf (.inr h)
      by_cases ht : msToPkt ms < s.reader.pktIdx
      · exact .inr (.inr (.inr (.inr (.inl
          ⟨ms, rfl, hl, hm, ht, by simp only [begin, beginSeek, if_neg hf, if_pos ht]⟩))))
      · exact .inr (.inr (.inr (.inr (.inr (.inl
          ⟨ms, rfl, hl, hm, Nat.le_of_not_lt ht, by simp only [begin, beginSeek, if_neg hf, if_neg ht]⟩)))))
  | totalMs => exact .inr (.inr (.inr (.inr (.inr (.inr ⟨_, rfl⟩)))))
  | curPosMs => exact .inr (.inr (.inr (.inr (.inr (.inr ⟨_, rfl⟩)))))
  | curDurMs => exact .inr (.inr (.inr (.inr (.inr (.inr ⟨_, rfl⟩)))))
  | finalPosMs => exact .inr (.inr (.inr (.inr (.inr (.inr ⟨_, rfl⟩)))))
  | readFrame => exact .inr (.inr (.inr (.inr (.inr (.inr ⟨_, rfl⟩)))))

/-- After a packet: the baseline is established on a change, the frame loop stops at its test, or the loop goes on. -/
theorem afterPacket_cases (s : State) :
    (s.phase = .baseline ∧ s.changed = true ∧ afterPacket s = baselineDone s) ∨
    (s.phase = .frameLoop ∧ stopTest s = true ∧ afterPacket s = moveStop s) ∨
    (afterPacket s = s ∧ (s.phase = .baseline → s.changed = false) ∧ (s.phase = .frameLoop → stopTest s = false)) := by
  cases hp : s.phase with
  | idle => exact .inr (.inr ⟨by simp [afterPacket, hp], by simp, by simp⟩)
  | baseline =>
    cases hc : s.changed with
    | true => exact .inl ⟨rfl, rfl, by simp [afterPacket, hp, hc]⟩
    | false => exact .inr (.inr ⟨by simp [afterPacket, hp, hc], by simp, by simp⟩)
  | frameLoop =>
    cases hc : stopTest s with
    | true => exact .inr (.inl ⟨rfl, rfl, by simp [afterPacket, hp, hc]⟩)
    | false => exact .inr (.inr ⟨by simp [afterPacket, hp, hc], by simp, by simp⟩)
  | seekTo target => exact .inr (.inr ⟨by simp [afterPacket, hp], by simp, by simp⟩)

/-- In a phase that wants a packet, the phase is a loop and its end test does not hold. -/
theorem wantsPacket_cases {s : State} (h : wantsPacket s = true) :
    (s.phase = .baseline ∧ s.reader.pktIdx ≠ s.packets) ∨ (s.phase = .frameLoop ∧ s.reader.pktIdx ≠ s.packets) ∨
    (∃ target, s.phase = .seekTo target ∧ s.reader.pktIdx < target) := by
  cases hp : s.phase with
  | idle => simp [wantsPacket, hp] at h
  | baseline => exact .inl ⟨rfl, by simpa [wantsPacket, hp] using h⟩
  | frameLoop => exact .inr (.inl ⟨rfl, by simpa [wantsPacket, hp] using h⟩)
  | seekTo target => exact .inr (.inr ⟨target, rfl, by simpa [wantsPacket, hp] using h⟩)

end Sys2Proof.Machine
end

