-- ==== Sys2Proof/Laws/Loops.lean ====
section
/-! SUPPORT. The loops of MOVE and SEEK: consuming packets does not see the phase, each loop ends after some packets in
one of its two ways, and nothing is refused under the default tile policy. -/

namespace Sys2Proof.Machine

theorem consumeRecord_setPhase (q : Record) (s : State) (p : Phase) :
    consumeRecord q (s.setPhase p) = andThen (consumeRecord q s) fun t => .next (t.setPhase p) := by
  rw [consumeRecord_eq, consumeRecord_eq, setPhase_cfg, setPhase_canvas]
  generalize recordEffect s.cfg q s.canvas = r
  by_cases h : recordRefuses s.cfg q = true
  · rw [if_pos h, if_pos h]; rfl
  · rw [if_neg h, if_neg h]; rfl

theorem consume_eq_consumeRecord {s : State} (hl : s.loaded = true) (hp : s.reader.pktIdx < s.packets) :
    consume s = consumeRecord (s.buf.record s.reader.pktIdx) s := by
  simp [consume, hl, Nat.not_le.mpr hp]

/-- Consuming a packet does not see the phase. -/
theorem consume_setPhase (s : State) (p : Phase) :
    consume (s.setPhase p) = andThen (consume s) fun t => .next (t.setPhase p) := by
  cases hl : s.loaded with
  | false => simp [consume, hl]
  | true =>
    by_cases hp : s.packets ≤ s.reader.pktIdx
    · simp [consume, hl, hp]
    · have h := Nat.lt_of_not_le hp
      rw [consume_eq_consumeRecord hl h, consume_eq_consumeRecord (s := s.setPhase p) hl h]
      exact consumeRecord_setPhase _ s p

theorem consumeMany_setPhase (n : Nat) (s : State) (p : Phase) :
    consumeMany n (s.setPhase p) = andThen (consumeMany n s) fun t => .next (t.setPhase p) := by
  induction n generalizing s with
  | zero => rfl
  | succ n ih =>
    rw [consumeMany, consumeMany, consume_setPhase, andThen_assoc, andThen_assoc]
    congr 1
    funext t
    exact ih t

theorem consumeMany_add (m n : Nat) (s : State) :
    consumeMany (m + n) s = andThen (consumeMany m s) (consumeMany n) := by
  induction m generalizing s with
  | zero => simp [consumeMany]
  | succ m ih =>
    rw [show m + 1 + n = (m + n) + 1 by omega, consumeMany, consumeMany, andThen_assoc]
    congr 1
    funext t
    exact ih t

/-- Under the default tile policy every packet that is left is consumed. -/
theorem consumeMany_total (n : Nat) {s : State} (hk : s.cfg.tileOob = .skip) (hl : s.loaded = true)
    (hp : s.reader.pktIdx + n ≤ s.packets) : ∃ t, consumeMany n s = .next t := by
  induction n generalizing s with
  | zero => exact ⟨s, rfl⟩
  | succ n ih =>
    have hu := consume_next hl (show s.reader.pktIdx < s.packets by omega) (recordRefuses_skip hk _)
    obtain ⟨-, -, ch, h1, -, h3, h4, h5, -⟩ := consume_facts hu
    obtain ⟨t, ht⟩ := ih (by rw [h3, hk]) h4 (by simp only [State.packets, h5, h1, consumed_pktIdx] at hp ⊢; omega)
    exact ⟨t, by rw [consumeMany, hu]; exact ht⟩

theorem setChanged_self {s : State} {b : Bool} (h : s.changed = b) : s.setChanged b = s := by
  subst h; rfl

/-- R240: the baseline loop ends after some packets, at a change or at the end of the stream. -/
theorem baselineLoop_next (n : Nat) {s t : State} (hc : s.changed = false) (h : baselineLoop n s = .next t) :
    ∃ m u, m ≤ n ∧ consumeMany m s = .next u ∧
      (t = u ∧ u.changed = true ∨ m = n ∧ u.changed = false ∧ t = u.setReader { u.reader with eos := true }) := by
  induction n generalizing s with
  | zero =>
    simp only [baselineLoop, Host.Outcome.next.injEq] at h
    exact ⟨0, s, le_refl _, rfl, .inr ⟨rfl, hc, h.symm⟩⟩
  | succ n ih =>
    rw [baselineLoop, setChanged_self hc] at h
    obtain ⟨v, hv, h⟩ := andThen_eq_next h
    cases hch : v.changed with
    | true =>
      simp only [hch, if_true, Host.Outcome.next.injEq] at h
      subst h
      exact ⟨1, v, by omega, by simp [consumeMany, hv], .inl ⟨rfl, hch⟩⟩
    | false =>
      simp only [hch, Bool.false_eq_true, if_false] at h
      obtain ⟨m, u, h1, h2, h3⟩ := ih hch h
      refine ⟨m + 1, u, by omega, by rw [consumeMany, hv]; exact h2, ?_⟩
      rcases h3 with h3 | ⟨rfl, h3⟩
      · exact .inl h3
      · exact .inr ⟨rfl, h3⟩

/-- R242 to R244: the frame loop ends after some packets, at its stop test or at the end of the stream. -/
theorem frameLoop_next (n : Nat) {s t : State} (h : frameLoop n s = .next t) :
    ∃ m u, m ≤ n ∧ consumeMany m s = .next u ∧
      (stopTest u = true ∧ 1 ≤ m ∧ t = moveStop u ∨
        m = n ∧ t = moveEof u ∧ (m = 0 ∨ stopTest u = false)) := by
  induction n generalizing s with
  | zero =>
    simp only [frameLoop, Host.Outcome.next.injEq] at h
    exact ⟨0, s, le_refl _, rfl, .inr ⟨rfl, h.symm, .inl rfl⟩⟩
  | succ n ih =>
    obtain ⟨v, hv, h⟩ := andThen_eq_next h
    cases hst : stopTest v with
    | true =>
      simp only [hst, if_true, Host.Outcome.next.injEq] at h
      exact ⟨1, v, by omega, by simp [consumeMany, hv], .inl ⟨hst, le_refl _, h.symm⟩⟩
    | false =>
      simp only [hst, Bool.false_eq_true, if_false] at h
      obtain ⟨m, u, h1, h2, h3⟩ := ih h
      refine ⟨m + 1, u, by omega, by rw [consumeMany, hv]; exact h2, ?_⟩
      rcases h3 with ⟨a, -, c⟩ | ⟨rfl, b, c⟩
      · exact .inl ⟨a, by omega, c⟩
      · refine .inr ⟨rfl, b, .inr ?_⟩
        rcases c with rfl | c
        · simp only [consumeMany, Host.Outcome.next.injEq] at h2
          subst h2
          exact hst
        · exact c

/-- Where the loop of a state that meets the invariant wants a packet, a stream is loaded and a packet is left. -/
theorem wantsPacket_left {s : State} (hi : StateInv s) (hw : wantsPacket s = true) :
    s.loaded = true ∧ s.reader.pktIdx < s.packets := by
  have hok := hi.phaseOk
  have hcur := hi.cursors
  rcases wantsPacket_cases hw with ⟨hp, _⟩ | ⟨hp, _⟩ | ⟨tg, hp, _⟩ <;> simp only [PhaseOk, hp] at hok <;>
    exact ⟨hok.1, by omega⟩

end Sys2Proof.Machine
end

