-- ==== Sys2Proof/Laws/PerInstr.lean ====
section
/-! SUPPORT. Statements made of every instruction, one lemma per constructor. -/

namespace Sys2Proof.Laws.HeaderWord

/-- R85, R95: the encoded header word matches a row of the opcode table, and exactly one. -/
def Statement (i : Instr) : Prop :=
  (opcodeRows.filter fun row => headerWord (encode i) &&& row.mask = row.pattern).map OpcodeRow.pattern
    = [(0x09#8 ++ i.code.setWidth 8 : BitVec 16)]

theorem header (i : Instr) : headerWord (encode i) = 0x09#8 ++ i.code.setWidth 8 := by
  simp [headerWord, encode]

theorem memPreset (color rep : BitVec 4) : Statement (.memPreset color rep) := by
  simp only [Statement, header, Instr.code]; decide

theorem borderPreset (color : BitVec 4) : Statement (.borderPreset color) := by
  simp only [Statement, header, Instr.code]; decide

theorem tile (color0 color1 : BitVec 4) (row : BitVec 5) (col : BitVec 6) (bits : Vector (BitVec 6) 12) :
    Statement (.tile color0 color1 row col bits) := by
  simp only [Statement, header, Instr.code]; decide

theorem scrollPreset (color : BitVec 4) (hCmd : BitVec 2) (hOffNew : BitVec 3) (vCmd : BitVec 2) (vOffNew : BitVec 4) :
    Statement (.scrollPreset color hCmd hOffNew vCmd vOffNew) := by
  simp only [Statement, header, Instr.code]; decide

theorem scrollCopy (hCmd : BitVec 2) (hOffNew : BitVec 3) (vCmd : BitVec 2) (vOffNew : BitVec 4) :
    Statement (.scrollCopy hCmd hOffNew vCmd vOffNew) := by
  simp only [Statement, header, Instr.code]; decide

theorem defTransp : Statement .defTransp := by
  simp only [Statement, header, Instr.code]; decide

theorem colorsLow (rgb : Vector Rgb12 8) : Statement (.colorsLow rgb) := by
  simp only [Statement, header, Instr.code]; decide

theorem colorsHigh (rgb : Vector Rgb12 8) : Statement (.colorsHigh rgb) := by
  simp only [Statement, header, Instr.code]; decide

theorem tileXor (color0 color1 : BitVec 4) (row : BitVec 5) (col : BitVec 6) (bits : Vector (BitVec 6) 12) :
    Statement (.tileXor color0 color1 row col bits) := by
  simp only [Statement, header, Instr.code]; decide

end Sys2Proof.Laws.HeaderWord
end

