-- ==== Sys2Proof/Tests/Slice0.lean ====
section
/-! SUPPORT. Small tests. Expected values come from the spec: the vectors V-... of 95_test_vectors.md, or are worked out
by hand from the rule that the test names. Then, for every obligation with hypotheses, a witness that meets them. -/

namespace Sys2Proof.Tests

open Sys2Proof.Machine

/-! ## Helpers -/

/-- A record from its first bytes, the rest 0. -/
def bytesRecord (bs : List Byte) : Record := Vector.ofFn fun i => bs.getD i.val 0#8

/-- The canvas after one record on the given canvas, under the given parameters; fresh where the run ends. -/
def canvasAfter (cfg : Params) (cv : Canvas) (i : Instr) : Canvas :=
  match exec i { State.reset with cfg := cfg, canvas := cv } with
  | .next t => t.canvas
  | .fault _ => Canvas.fresh
  | .refused _ => Canvas.fresh

/-- The change bit that one record reports, none where the run ends. -/
def changeOf (cfg : Params) (cv : Canvas) (p : Record) : Option Bool :=
  match consumeRecord p { State.reset with cfg := cfg, canvas := cv } with
  | .next t => some t.changed
  | .fault _ => none
  | .refused _ => none

/-- A canvas of zeros but for one cell. -/
def oneCell (row col : Nat) (v : Cell) : Canvas :=
  { Canvas.fresh with grid := Grid.tabulate fun r c => if r.val = row ∧ c.val = col then v else 0#4 }

/-- A canvas with these offsets. -/
def offsets (h : Fin 6) (v : Fin 12) : Canvas := { Canvas.fresh with hOff := h, vOff := v }

/-- Twelve equal tile rows. -/
def rows (b : BitVec 6) : Vector (BitVec 6) 12 := Vector.replicate 12 b

/-- The state as LOAD leaves it, for a stream of these records. -/
def loadedWith (rs : List Record) : State :=
  { State.reset with loaded := true, buf := Memory.ofBytes (bytesOfRecords rs) }

/-- The loaded state at a place of its stream, idle, after some MOVE or SEEK. -/
def at_ (rs : List Record) (pkt cur nxt : Nat) (eos : Bool) : State :=
  { loadedWith rs with reader := ⟨pkt, cur, nxt, none, eos, true⟩ }

/-- A frame of zeros in the default layout. -/
def blankFrame : Memory := ⟨55344, []⟩

/-- The frame loop of a MOVE whose boundary is `cur`, at packet `pkt`, with no change seen yet. -/
def inFrameLoop (rs : List Record) (pkt cur : Nat) : State :=
  { at_ rs pkt cur cur false with frame := some blankFrame, phase := .frameLoop }

def memPreset1 : Record := bytesRecord [0x09, 0x01, 0, 0, 0x01]
def defTranspRecord : Record := bytesRecord [0x09, 0x1C]
def colorsLowRecord : Record := bytesRecord [0x09, 0x1E, 0, 0, 0x16, 0x23]
def scrollRecord : Record := bytesRecord [0x09, 0x18, 0, 0, 0x00, 0x05, 0x0B]
def tileOutRecord : Record := bytesRecord [0x09, 0x06, 0, 0, 0x00, 0x02, 0x12, 0x00]

/-! ## Geometry: the numerals in the types are the constants of R7 to R12 -/

theorem test_geometry :
    Config.tileRows * Config.tileH = Config.canvasH ∧ Config.tileCols * Config.tileW = Config.canvasW ∧
      Config.visW * Config.visH = Config.bitmapBytes ∧
      Config.visRow0 + Config.vOffMax + Config.visH ≤ Config.canvasH ∧
      Config.visCol0 + Config.hOffMax + Config.visW ≤ Config.canvasW ∧
      Config.packetsPerSecond / Config.maxFps = Config.minPackets := by decide

theorem test_default_image_size : Params.default.imageSize = 55344 := by decide

/-! ## Decoding: bits written out from 30_encoding.md -/

/-- V-E1: code 1, color = data[0] bits 3:0, repeat = data[1] bits 3:0; here with the ignored bits set. -/
theorem test_decode_memPreset :
    decodeRecord (bytesRecord [0b11001001, 0b00000001, 0, 0, 0b11110011, 0b10100101]) = .ok (.memPreset 3#4 5#4) := by
  decide

/-- V-E3. -/
theorem test_decode_borderPreset :
    decodeRecord (bytesRecord [0b00001001, 0b00000010, 0, 0, 0b00000100]) = .ok (.borderPreset 4#4) := by decide

/-- V-T3 and V-T7: row = data[2] bits 4:0, col = data[3] bits 5:0, a row byte keeps bits 5:0. -/
theorem test_decode_tile :
    decodeRecord (bytesRecord [0b00001001, 0b00000110, 0, 0, 0b00000101, 0b00001001, 0b11100001, 0b11000010,
      0b00100000, 0b00000001, 0b00101010, 0, 0, 0, 0, 0, 0, 0, 0, 0b11111111]) =
      .ok (.tile 5#4 9#4 1#5 2#6
        #v[0b100000#6, 0b000001#6, 0b101010#6, 0, 0, 0, 0, 0, 0, 0, 0, 0b111111#6]) := by decide

/-- V-E5. -/
theorem test_decode_tileXor :
    decodeRecord (bytesRecord [0b00001001, 0b00100110, 0, 0, 0b00000000, 0b00000011, 0b00000001, 0b00000001,
      0x3F, 0x3F, 0x3F, 0x3F, 0x3F, 0x3F, 0x3F, 0x3F, 0x3F, 0x3F, 0x3F, 0x3F]) =
      .ok (.tileXor 0#4 3#4 1#5 1#6 (rows 0x3F#6)) := by decide

/-- R90 (general knowledge G2): command bits 5:4, horizontal offset bits 2:0, vertical offset bits 3:0. -/
theorem test_decode_scrollPreset :
    decodeRecord (bytesRecord [0b00001001, 0b00010100, 0, 0, 0b00000111, 0b00010101, 0b00101011]) =
      .ok (.scrollPreset 7#4 1#2 5#3 2#2 11#4) := by decide

/-- V-E8. -/
theorem test_decode_scrollCopy :
    decodeRecord (bytesRecord [0b00001001, 0b00011000, 0, 0, 0b00000000, 0b00000101, 0b00001011]) =
      .ok (.scrollCopy 0#2 5#3 0#2 11#4) := by decide

/-- V-E10. -/
theorem test_decode_defTransp :
    decodeRecord (bytesRecord [0b00001001, 0b00011100]) = .ok .defTransp := by decide

/-- V-E12 and V-C4: `0x5A3` with the ignored bits set. -/
theorem test_decode_colorsLow :
    decodeRecord (bytesRecord [0b00001001, 0b00011110, 0, 0, 0b11010110, 0b11100011]) =
      .ok (.colorsLow #v[⟨5, 10, 3⟩, ⟨0, 0, 0⟩, ⟨0, 0, 0⟩, ⟨0, 0, 0⟩, ⟨0, 0, 0⟩, ⟨0, 0, 0⟩, ⟨0, 0, 0⟩, ⟨0, 0, 0⟩]) := by
  decide

/-- V-E13. -/
theorem test_decode_colorsHigh :
    decodeRecord (bytesRecord [0b00001001, 0b00011111, 0, 0, 0, 0, 0, 0, 0, 0, 0, 0, 0, 0, 0, 0, 0, 0,
      0b00111111, 0b00111111]) =
      .ok (.colorsHigh #v[⟨0, 0, 0⟩, ⟨0, 0, 0⟩, ⟨0, 0, 0⟩, ⟨0, 0, 0⟩, ⟨0, 0, 0⟩, ⟨0, 0, 0⟩, ⟨0, 0, 0⟩,
        ⟨15, 15, 15⟩]) := by decide

/-- V-P9, V-X1, V-E14 and R64: what is no instruction is refused by name. -/
theorem test_decode_rejects :
    decodeRecord (bytesRecord [0x0A, 0x01, 0, 0, 0x03]) = .error .nonCdg ∧
      decodeRecord (bytesRecord [0x09, 0x3F]) = .error (.unusedCode 63#6) ∧
      decodeRecord (bytesRecord []) = .error .nonCdg ∧
      decode [0x09, 0x01] = .error .partialRecord := by decide

/-- The host's numbering: the header word is the first 16-bit word (R85). -/
theorem test_decode_table_word :
    decodeTableWord 16 0x0902 = some (.borderPreset 0#4) ∧ decodeTableWord 16 0x0926 = some (.tileXor 0 0 0 0 (rows 0)) ∧
      decodeTableWord 16 0x0903 = none := by decide

/-! ## Encoding and assembling (V-E vectors) -/

theorem test_encode_colors :
    (encode (.colorsLow #v[⟨5, 10, 3⟩, ⟨0, 0, 0⟩, ⟨0, 0, 0⟩, ⟨0, 0, 0⟩, ⟨0, 0, 0⟩, ⟨0, 0, 0⟩, ⟨0, 0, 0⟩, ⟨0, 0, 0⟩])) =
      bytesRecord [0x09, 0x1E, 0, 0, 0x16, 0x23] := by decide

theorem test_assemble_p1_tile :
    (SrcLine.tile1 0 2 0 0 0xFF).assemble = some [bytesRecord [0x09, 0x06, 0, 0, 0, 0x02, 0, 0, 0xFF, 0xFF, 0xFF, 0xFF,
      0xFF, 0xFF, 0xFF, 0xFF, 0xFF, 0xFF, 0xFF, 0xFF]] := by decide

theorem test_assemble_scroll :
    (SrcLine.scrollCopy 2 0 2 0).assemble = some [bytesRecord [0x09, 0x18, 0, 0, 0, 0x20, 0x20]] := by decide

/-! ## Well-formedness: one ill-formed line for each check -/

theorem test_wf_memPreset : (SrcLine.memPreset 16 0).wf = false ∧ (SrcLine.memPreset 0 16).wf = false := by decide
theorem test_wf_borderPreset : (SrcLine.borderPreset 16).wf = false := by decide
theorem test_wf_tile :
    (SrcLine.tile1 16 0 0 0 0).wf = false ∧ (SrcLine.tile1 0 16 0 0 0).wf = false ∧
      (SrcLine.tile1 0 0 32 0 0).wf = false ∧ (SrcLine.tile1 0 0 0 64 0).wf = false ∧
      (SrcLine.tile1 0 0 0 0 256).wf = false ∧ (SrcLine.tileXor1 0 0 0 0 256).wf = false ∧
      (SrcLine.tile 0 0 0 0 (List.replicate 11 0)).wf = false ∧
      (SrcLine.tile 0 0 0 0 (List.replicate 12 256)).wf = false ∧
      (SrcLine.tileXor 0 0 0 0 (List.replicate 13 0)).wf = false := by decide
theorem test_wf_scroll :
    (SrcLine.scrollPreset 16 0 0 0 0).wf = false ∧ (SrcLine.scrollCopy 4 0 0 0).wf = false ∧
      (SrcLine.scrollCopy 0 8 0 0).wf = false ∧ (SrcLine.scrollCopy 0 0 4 0).wf = false ∧
      (SrcLine.scrollCopy 0 0 0 16).wf = false := by decide
theorem test_wf_colors :
    (SrcLine.colorsLow (List.replicate 8 4096)).wf = false ∧ (SrcLine.colorsHigh (List.replicate 7 0)).wf = false := by
  decide
theorem test_wf_raw :
    (SrcLine.raw (List.replicate 23 0)).wf = false ∧ (SrcLine.raw (List.replicate 24 256)).wf = false := by decide
theorem test_assemble_error : (SrcLine.memPreset 16 0).assemble = none := by decide

/-! ## Instructions, one cell or entry at a time -/

/-- V-P1. -/
theorem test_memPreset_fills :
    (canvasAfter .default Canvas.fresh (.memPreset 1 0)).grid.cell 215 299 = 1#4 := by decide +kernel
/-- V-P2, V-P6: a repeat after the same colour is no change; a first one is. -/
theorem test_memPreset_dedup :
    changeOf .default { Canvas.fresh with last := .memoryPreset 1 } (encode (.memPreset 1 1)) = some false ∧
      changeOf .default Canvas.fresh (encode (.memPreset 0 3)) = some true := by decide +kernel
/-- V-B1. -/
theorem test_border_bottom :
    (canvasAfter .default Canvas.fresh (.borderPreset 4)).grid.cell 202 100 = 4#4 ∧
      (canvasAfter .default Canvas.fresh (.borderPreset 4)).grid.cell 201 293 = 0#4 := by decide +kernel
/-- V-B4. -/
theorem test_border_bottom_12 :
    (canvasAfter { Params.default with borderBottom := .rows12 } Canvas.fresh (.borderPreset 4)).grid.cell 203 100 = 0#4
      := by decide +kernel
/-- V-T3, row 26: `9 5 9 5 9 5`. -/
theorem test_tile_row_byte :
    (canvasAfter .default Canvas.fresh (.tile 5 9 2 3 #v[0x20, 0x01, 0x2A, 0, 0, 0, 0, 0, 0, 0, 0, 0x3F])).grid.cell 26 18
        = 9#4 ∧
      (canvasAfter .default Canvas.fresh (.tile 5 9 2 3 #v[0x20, 0x01, 0x2A, 0, 0, 0, 0, 0, 0, 0, 0, 0x3F])).grid.cell
        25 22 = 5#4 := by decide +kernel
/-- V-T4, V-T12. -/
theorem test_tile_outside :
    changeOf .default Canvas.fresh tileOutRecord = some false ∧
      changeOf { Params.default with tileOob := .refuse } Canvas.fresh tileOutRecord = none := by decide +kernel
/-- V-T8: `6^10 = 12`, on one cell of 6. -/
theorem test_tileXor :
    (canvasAfter .default (oneCell 48 43 6) (.tileXor 5 10 4 7 (rows 0x15))).grid.cell 48 43 = 12#4 := by
  decide +kernel
/-- V-S1: right by six, column 5 vacated. -/
theorem test_scrollPreset_right :
    (canvasAfter .default (oneCell 100 10 5) (.scrollPreset 7 1 0 0 0)).grid.cell 100 16 = 5#4 ∧
      (canvasAfter .default (oneCell 100 10 5) (.scrollPreset 7 1 0 0 0)).grid.cell 100 5 = 7#4 := by decide +kernel
/-- V-S4: down by twelve, wrapped. -/
theorem test_scrollCopy_down :
    (canvasAfter .default (oneCell 210 5 5) (.scrollCopy 0 0 1 0)).grid.cell 6 5 = 5#4 := by decide +kernel
/-- V-S9: 6 and 12 are out of range and kept. -/
theorem test_scroll_offsets_kept :
    (canvasAfter .default (offsets 3 4) (.scrollCopy 0 6 0 12)).hOff = 3 ∧
      (canvasAfter .default (offsets 3 4) (.scrollCopy 0 6 0 12)).vOff = 4 := by decide +kernel
/-- V-C3. -/
theorem test_colorsLow :
    (canvasAfter .default Canvas.fresh
      (.colorsLow #v[⟨5, 10, 3⟩, ⟨0, 0, 0⟩, ⟨0, 0, 0⟩, ⟨0, 0, 0⟩, ⟨0, 0, 0⟩, ⟨0, 0, 0⟩, ⟨0, 0, 0⟩, ⟨0, 0, 0⟩])).pal[0] =
      ⟨85, 170, 51⟩ := by decide +kernel
/-- V-C5: the values already held are no change. -/
theorem test_colorsLow_same :
    changeOf .default Canvas.fresh (bytesRecord [0x09, 0x1E]) = some false := by decide +kernel
/-- V-C6. -/
theorem test_colorsHigh :
    (canvasAfter .default Canvas.fresh
      (.colorsHigh #v[⟨0, 0, 0⟩, ⟨0, 0, 0⟩, ⟨0, 0, 0⟩, ⟨0, 0, 0⟩, ⟨0, 0, 0⟩, ⟨0, 0, 0⟩, ⟨0, 0, 0⟩, ⟨15, 15, 15⟩])).pal[15] =
      ⟨255, 255, 255⟩ := by decide +kernel
/-- V-C8. -/
theorem test_defTransp :
    (canvasAfter .default { Canvas.fresh with last := .memoryPreset 3 } .defTransp).last = .none := by decide +kernel

/-! ## Conversions (95_test_vectors.md §2.7) and frames -/

theorem test_pktToMs : [1, 2, 3, 4, 5, 11, 299, 301].map pktToMs = [3, 6, 10, 13, 16, 36, 996, 1003] := by decide
theorem test_msToPkt : [3, 4, 6, 7, 999, 1000, 1001].map msToPkt = [0, 1, 1, 2, 299, 300, 300] := by decide

/-- V-S7, V-F3: pixel (0, 0) is cell (23, 11) under offsets (5, 11); V-F4: pixel (287, 191) is cell (214, 298). -/
theorem test_visible :
    visible { oneCell 23 11 9 with hOff := 5, vOff := 11 } 0 0 = 9#4 ∧
      visible { oneCell 214 298 9 with hOff := 5, vOff := 11 } 287 191 = 9#4 := by decide +kernel

/-- V-M5's SEEK beyond the total and P1's TOTAL_MS: two packets, 6 ms. -/
theorem test_totalMs : totalMs (loadedWith [memPreset1, tileOutRecord]) = 6 := by decide

/-! ## Witnesses: for every obligation with hypotheses, states and operands that meet them all together -/

/-- A loaded state with a fresh Canvas meets the invariant where its cursors and its phase do. -/
theorem inv_of_fresh {s : State} (hl : s.loaded = true) (hb : s.buf.wf = true) (hc : s.canvas = Canvas.fresh)
    (hf : s.frame = none ∨ s.frame = some blankFrame) (hi : s.cfg.imageSize = 55344)
    (hcur : s.reader.curIdx ≤ s.reader.nextIdx ∧ s.reader.nextIdx ≤ s.reader.pktIdx ∧ s.reader.pktIdx ≤ s.packets)
    (hlc : s.reader.lastChange = none) (he : s.reader.eos = true → s.reader.pktIdx = s.packets) (hp : PhaseOk s) :
    StateInv s where
  bufWf := hb
  frameWf := by
    intro f h
    rcases hf with e | e <;> rw [e] at h <;> simp only [Option.some.injEq, reduceCtorEq] at h
    subst h
    exact ⟨rfl, hi.symm⟩
  cursors := hcur
  lastChange := by simp [hlc]
  eos := he
  palette := by intro i h; simp [hc, Rgb.scaled]
  lastPreset := by simp [hc]
  unloaded := by simp [hl]
  phaseOk := hp

/-- A fresh Canvas at the start of the stream is replayed. -/
theorem replayed_of_start {s : State} (hc : s.canvas = Canvas.fresh) (hp : s.reader.pktIdx = 0)
    (hl : s.reader.lastChange = none) : Replayed s :=
  ⟨s.rewound, by rw [hp]; rfl, by simp [hc], by simp [hl]⟩

/-- Idle at the start of a one-packet stream, a MOVE pending. -/
def w_move : State := { at_ [memPreset1] 0 0 0 false with pending := [.move] }

theorem w_move_inv : StateInv w_move :=
  inv_of_fresh rfl (by decide) rfl (.inl rfl) (by decide) (by decide) rfl (by decide)
    ⟨rfl, .inl rfl, by decide⟩

/-- In the frame loop, one packet left. -/
theorem w_loop_inv : StateInv (inFrameLoop [memPreset1] 0 0) :=
  inv_of_fresh rfl (by decide) rfl (.inr rfl) (by decide) (by decide) rfl (by decide) ⟨rfl, rfl, rfl, rfl, rfl⟩

/-- In the frame loop, a tile outside the canvas next, under the policy `refuse`. -/
def w_refuse : State :=
  { inFrameLoop [tileOutRecord] 0 0 with cfg := { Params.default with tileOob := .refuse } }

theorem w_refuse_inv : StateInv w_refuse :=
  inv_of_fresh rfl (by decide) rfl (.inr rfl) (by decide) (by decide) rfl (by decide) ⟨rfl, rfl, rfl, rfl, rfl⟩

theorem witness_StepKeepsInv : ∃ t, StateInv (inFrameLoop [memPreset1] 0 0) ∧
    step (inFrameLoop [memPreset1] 0 0) = .next t := ⟨_, w_loop_inv, rfl⟩

theorem witness_StepKeepsReplayed : ∃ t, Replayed (inFrameLoop [memPreset1] 0 0) ∧
    step (inFrameLoop [memPreset1] 0 0) = .next t := ⟨_, replayed_of_start rfl rfl rfl, rfl⟩

theorem witness_StepNeverFaults : StateInv w_refuse ∧ step w_refuse = .refused .tileOutsideCanvas ∧
    ∃ t, StateInv w_move ∧ step w_move = .next t := ⟨w_refuse_inv, rfl, _, w_move_inv, rfl⟩

theorem witness_EveryRunIsSafe : StateInv w_move ∧ StateInv w_refuse := ⟨w_move_inv, w_refuse_inv⟩

/-- Records that differ in every parity byte, and in no other. -/
theorem witness_ParityBytesIgnored :
    ∀ (j : Nat) (h : j < 24), j ≠ 2 → j ≠ 3 → j < 20 →
      (memPreset1)[j] = (Vector.ofFn fun i : Fin 24 => if i.val = 2 ∨ i.val = 3 ∨ 20 ≤ i.val then 0xFF#8 else
        memPreset1[i.val])[j] := by decide

theorem witness_HeaderFieldsAreMasked :
    (0xC9#8 &&& 0x3F#8 = memPreset1[0] &&& 0x3F#8) ∧ (0x41#8 &&& 0x3F#8 = memPreset1[1] &&& 0x3F#8) ∧
      (bytesRecord [0x0A])[0] &&& 0x3F#8 ≠ 0x09#8 := by decide

/-- Records that differ in bits 7:6 of every byte; and a record of each code, the first with bits 7:6 of its header set. -/
theorem witness_OnlySixBitsOfEachByteMatter :
    (∀ (j : Nat) (h : j < 24), j ≠ 2 → j ≠ 3 → j < 20 →
      memPreset1[j] &&& 0x3F#8 = (Vector.ofFn fun i : Fin 24 => memPreset1[i.val] ||| 0xC0#8)[j] &&& 0x3F#8) ∧
    (bytesRecord [0xC9, 0xC1])[0] &&& 0x3F#8 = 0x09#8 ∧ (bytesRecord [0xC9, 0xC1])[1] &&& 0x3F#8 = 1#8 ∧
    ∀ code ∈ [2#8, 6#8, 20#8, 24#8, 28#8, 30#8, 31#8, 38#8],
      (bytesRecord [0x09, code])[0] &&& 0x3F#8 = 0x09#8 ∧ (bytesRecord [0x09, code])[1] &&& 0x3F#8 = code := by decide

theorem witness_EveryRecordHasAnEffect :
    defTranspRecord[0] &&& 0x3F#8 = 0x09#8 ∧ defTranspRecord[1] &&& 0x3F#8 = 28#8 ∧
      State.reset.cfg.tileOob = .skip := by decide

theorem witness_OpcodeMapIsExact : decodeRecord memPreset1 = .ok (.memPreset 1#4 0#4) := by decide

/-- The largest operands of every line, a row operand being a whole byte; and one too wide or one too few refuses. -/
theorem witness_AssemblerEncodes :
    (SrcLine.memPreset 15 15).wf = true ∧ (SrcLine.borderPreset 15).wf = true ∧
      (SrcLine.scrollPreset 15 3 7 3 15).wf = true ∧ (SrcLine.scrollCopy 3 7 3 15).wf = true ∧
      (SrcLine.tile 15 15 31 63 (List.replicate 12 63)).wf = true ∧
      (SrcLine.tile 15 15 31 63 (List.replicate 12 255)).wf = true ∧
      (List.replicate 12 255).length = 12 ∧ (∀ b ∈ List.replicate 12 255, b < 256) ∧
      (SrcLine.tile 15 15 31 63 (List.replicate 12 256)).assemble = none ∧
      (SrcLine.tileXor 15 15 31 64 (List.replicate 12 255)).assemble = none ∧
      (SrcLine.colorsLow (List.replicate 7 4095)).assemble = none ∧
      (SrcLine.raw (List.replicate 23 0)).assemble = none := by decide

/-- One state for each clause: an instruction, a non-CDG packet, an unused code. -/
theorem witness_StepRunsDecodedInstruction :
    ((inFrameLoop [memPreset1] 0 0).loaded = true ∧ wantsPacket (inFrameLoop [memPreset1] 0 0) = true ∧
      (inFrameLoop [memPreset1] 0 0).buf.readBytes 0 24 = some memPreset1.toList ∧
      decode memPreset1.toList = .ok (.memPreset 1#4 0#4)) ∧
    (wantsPacket (inFrameLoop [memPreset1, bytesRecord [0x0A, 0x01]] 1 0) = true ∧
      (inFrameLoop [memPreset1, bytesRecord [0x0A, 0x01]] 1 0).buf.readBytes 24 24 =
        some (bytesRecord [0x0A, 0x01]).toList ∧ decode (bytesRecord [0x0A, 0x01]).toList = .error .nonCdg) ∧
    (wantsPacket (inFrameLoop [bytesRecord [0x09, 0x3F]] 0 0) = true ∧
      (inFrameLoop [bytesRecord [0x09, 0x3F]] 0 0).buf.readBytes 0 24 = some (bytesRecord [0x09, 0x3F]).toList ∧
      decode (bytesRecord [0x09, 0x3F]).toList = .error (.unusedCode 63#6)) := by decide

theorem witness_PlacedWordRunsNext :
    State.reset.buf.wf = true ∧ decodeTableWord 16 0x0901 = some (.memPreset 0#4 0#4) := by decide

/-- A non-CDG record, and unused codes at the ends of the gaps of R95. -/
theorem witness_PacketsOutsideTableAreNops :
    (bytesRecord [0x0A, 0x01])[0] &&& 0x3F#8 ≠ 0x09#8 ∧
      ∀ c ∈ [0, 3, 5, 7, 19, 21, 23, 25, 27, 29, 32, 37, 39, 63],
        (bytesRecord [0x09, BitVec.ofNat 8 c])[0] &&& 0x3F#8 = 0x09#8 ∧
          ((bytesRecord [0x09, BitVec.ofNat 8 c])[1] &&& 0x3F#8).toNat ∉ [1, 2, 6, 20, 24, 28, 30, 31, 38] := by decide

/-- The last packet of a stream, under the default policy. -/
theorem witness_ConsumeAdvancesByOne : ∃ t, (at_ [memPreset1, memPreset1] 1 1 1 false).cfg.tileOob = .skip ∧
    (at_ [memPreset1, memPreset1] 1 1 1 false).loaded = true ∧
    (at_ [memPreset1, memPreset1] 1 1 1 false).reader.pktIdx < (at_ [memPreset1, memPreset1] 1 1 1 false).packets ∧
    consume (at_ [memPreset1, memPreset1] 1 1 1 false) = .next t := ⟨_, rfl, rfl, by decide, rfl⟩

theorem witness_EveryInstructionUpdatesLast : ∃ t, exec .defTransp State.reset = .next t := ⟨_, rfl⟩

theorem witness_BorderPresetFillsBands :
    (bytesRecord [0xC9, 0x42, 0, 0, 0xF4])[0] &&& 0x3F#8 = 0x09#8 ∧
      (bytesRecord [0xC9, 0x42, 0, 0, 0xF4])[1] &&& 0x3F#8 = 0x02#8 := by decide

/-- `repeat` 0 after the same colour; `repeat` not 0 after another. -/
theorem witness_MemPresetFillsCanvas :
    ((0#4 = 0#4 ∨ LastCommand.memoryPreset 1#4 ≠ .memoryPreset 1#4) ∧
      (15#4 = 0#4 ∨ LastCommand.memoryPreset 2#4 ≠ .memoryPreset 1#4)) := by decide

theorem witness_MemPresetRepeatIsDeduplicated :
    (1#4 ≠ 0#4 ∧ ({ Canvas.fresh with last := .memoryPreset 3#4 } : Canvas).last = .memoryPreset 3#4) := by decide

theorem witness_DedupLaw : (∃ t, exec (.memPreset 1#4 0#4) State.reset = .next t) ∧ 1#4 ≠ 0#4 ∧
    State.reset.canvas.last = .none ∧ 1#4 ≠ 2#4 := ⟨⟨_, rfl⟩, by decide, rfl, by decide⟩

/-- The last tile position inside the canvas, and its last cell. -/
theorem witness_TileWritesItsCells :
    (17#5).toNat < 18 ∧ (49#6).toNat < 50 ∧ (215 : Fin 216).val = (17#5).toNat * 12 + (11 : Fin 12).val ∧
      (299 : Fin 300).val = (49#6).toNat * 6 + (5 : Fin 6).val ∧
      ((203 : Fin 216).val < (17#5).toNat * 12 ∨ (17#5).toNat * 12 + 12 ≤ (203 : Fin 216).val) := by decide

/-- The first tile position, its first cell and the cells just outside. -/
theorem witness_TileXorWritesItsCells :
    (0#5).toNat < 18 ∧ (0#6).toNat < 50 ∧ (0 : Fin 216).val = (0#5).toNat * 12 + (0 : Fin 12).val ∧
      (0 : Fin 300).val = (0#6).toNat * 6 + (0 : Fin 6).val ∧ (0#5).toNat * 12 + 12 ≤ (12 : Fin 216).val ∧
      (0#6).toNat * 6 + 6 ≤ (6 : Fin 300).val := by decide

/-- The first positions outside the canvas, and both policies. -/
theorem witness_TileOutsideCanvas :
    (18 ≤ (18#5).toNat ∨ 50 ≤ (0#6).toNat) ∧ (18 ≤ (17#5).toNat ∨ 50 ≤ (50#6).toNat) ∧
      State.reset.cfg.tileOob = .skip ∧ w_refuse.cfg.tileOob = .refuse := by decide

theorem witness_TileXorIsSelfInverse :
    ∃ t, exec (.tileXor 5#4 10#4 17#5 49#6 (rows 0x15#6)) State.reset = .next t := ⟨_, rfl⟩

/-- Right and down: the first moved cell, the last vacated one. -/
theorem witness_ScrollPresetMovesCells :
    (-6 : Int) = (if (1#2) = 1#2 then -6 else if (1#2) = 2#2 then 6 else 0) ∧
      (12 : Int) = (if (2#2) = 1#2 then -12 else if (2#2) = 2#2 then 12 else 0) ∧
      ((215 : Fin 216).val : Int) = (203 : Fin 216).val + 12 ∧ ((0 : Fin 300).val : Int) = (6 : Fin 300).val + (-6) ∧
      216 ≤ ((204 : Fin 216).val : Int) + 12 ∧ ((5 : Fin 300).val : Int) + (-6) < 0 := by decide

/-- Right and up, both wrapped. -/
theorem witness_ScrollCopyRotatesCells :
    (-6 : Int) = (if (1#2) = 1#2 then -6 else if (1#2) = 2#2 then 6 else 0) ∧
      (12 : Int) = (if (2#2) = 1#2 then -12 else if (2#2) = 2#2 then 12 else 0) ∧
      ((11 : Fin 216).val : Int) = ((215 : Fin 216).val + 12) % 216 ∧
      ((299 : Fin 300).val : Int) = ((5 : Fin 300).val + (-6)) % 300 := by decide

/-- The largest offsets in range and the smallest beyond it (V-S9). -/
theorem witness_ScrollSetsOffsets :
    (∃ t, exec (.scrollCopy 0#2 5#3 0#2 11#4) State.reset = .next t) ∧
      ∃ t, exec (.scrollPreset 0#4 0#2 6#3 0#2 12#4) State.reset = .next t := ⟨⟨_, rfl⟩, _, rfl⟩

theorem witness_ScrollCopyTurnsBack :
    (∃ t u, exec (.scrollCopy 1#2 0#3 0#2 0#4) State.reset = .next t ∧ exec (.scrollCopy 2#2 0#3 0#2 0#4) t = .next u) ∧
      ∃ t u, exec (.scrollCopy 0#2 0#3 1#2 0#4) State.reset = .next t ∧ exec (.scrollCopy 0#2 0#3 2#2 0#4) t = .next u :=
  ⟨⟨_, _, rfl, rfl⟩, _, _, rfl, rfl⟩

/-- The first cell read at zero offsets and the largest cell ever read (V-F4). -/
theorem witness_FrameShowsCropWindow :
    ((12 : Fin 216).val = 12 + Canvas.fresh.vOff.val + (0 : Fin 192).val ∧
      (6 : Fin 300).val = 6 + Canvas.fresh.hOff.val + (0 : Fin 288).val) ∧
      ((214 : Fin 216).val = 12 + (offsets 5 11).vOff.val + (191 : Fin 192).val ∧
      (298 : Fin 300).val = 6 + (offsets 5 11).hOff.val + (287 : Fin 288).val) := by decide

theorem witness_FrameCarriesPalette :
    Params.default.paletteLayout = PaletteLayout.rgb888x16 ∧ 55295 < 55296 := by decide

theorem witness_CompositorShowsPalette : Params.default.paletteLayout = PaletteLayout.rgb888x16 := rfl

/-- Canvases that differ in cell (215, 299). -/
theorem witness_BorderCellsNeverVisible :
    ((oneCell 215 299 9).pal = Canvas.fresh.pal ∧ (oneCell 215 299 9).hOff = Canvas.fresh.hOff ∧
      (oneCell 215 299 9).vOff = Canvas.fresh.vOff) ∧
    (∀ (r : Fin 216) (c : Fin 300), 12 ≤ r.val → r.val ≤ 214 → 6 ≤ c.val → c.val ≤ 298 →
      (oneCell 215 299 9).grid.cell r c = Canvas.fresh.grid.cell r c) := by
  refine ⟨⟨rfl, rfl, rfl⟩, ?_⟩
  intro r c _ h _ _
  have hr : r.val ≠ 215 := by omega
  simp [oneCell, hr]

theorem witness_LoadMakesEverythingFresh :
    let s : State := { State.reset with pending := [.load [0x09#8], .move] }
    s.phase = .idle ∧ s.pending = .load [0x09#8] :: [.move] := ⟨rfl, rfl⟩

theorem witness_UnloadDropsStream :
    let s : State := { at_ [memPreset1] 1 0 1 true with pending := [.unload] }
    s.phase = .idle ∧ s.pending = .unload :: [] := ⟨rfl, rfl⟩

theorem witness_UnloadedAnswersNoData : State.reset.loaded = false := rfl

/-- Both answers of FINAL_POS_MS. -/
theorem witness_QueryAnswers :
    let s : State := { loadedWith [memPreset1] with reader := ⟨1, 0, 1, some 0, true, true⟩ }
    (s.loaded = true ∧ s.reader.eos = true ∧ s.reader.lastChange = some 0) ∧
      (loadedWith [memPreset1]).reader.eos = false := ⟨⟨rfl, rfl, rfl⟩, rfl⟩

theorem witness_MoveTakesSnapshot : w_move.phase = .idle ∧ w_move.pending = .move :: [] ∧ w_move.loaded = true ∧
    w_move.reader.started = true := ⟨rfl, rfl, rfl, rfl⟩

/-- In the baseline loop at packet `pkt`. -/
def w_baseline (rs : List Record) (pkt : Nat) : State := { at_ rs pkt 0 0 false with phase := .baseline }

/-- No change, a change, and the end of the stream. -/
theorem witness_BaselineStopsAtFirstChange :
    (∃ u, (w_baseline [defTranspRecord] 0).phase = .baseline ∧
      (w_baseline [defTranspRecord] 0).reader.pktIdx ≠ (w_baseline [defTranspRecord] 0).packets ∧
      consume (w_baseline [defTranspRecord] 0) = .next u ∧ u.changed = false) ∧
    (∃ u, (w_baseline [memPreset1] 0).phase = .baseline ∧
      (w_baseline [memPreset1] 0).reader.pktIdx ≠ (w_baseline [memPreset1] 0).packets ∧
      consume (w_baseline [memPreset1] 0) = .next u ∧ u.changed = true) ∧
    ((w_baseline [memPreset1] 1).phase = .baseline ∧
      (w_baseline [memPreset1] 1).reader.pktIdx = (w_baseline [memPreset1] 1).packets) :=
  ⟨⟨_, rfl, by decide, rfl, rfl⟩, ⟨_, rfl, by decide, rfl, rfl⟩, rfl, by decide⟩

/-- The fifth packet since the boundary stops the loop; the fourth does not. -/
theorem witness_FrameLoopStopsAfterFive :
    (∃ u, (inFrameLoop (List.replicate 5 memPreset1) 4 0).phase = .frameLoop ∧
      (inFrameLoop (List.replicate 5 memPreset1) 4 0).reader.pktIdx ≠
        (inFrameLoop (List.replicate 5 memPreset1) 4 0).packets ∧
      consume (inFrameLoop (List.replicate 5 memPreset1) 4 0) = .next u ∧ u.changed = true ∧
      5 ≤ u.reader.pktIdx - u.reader.curIdx ∧ u.frame = some blankFrame) ∧
    (∃ u, (inFrameLoop (List.replicate 5 memPreset1) 3 0).reader.pktIdx ≠
        (inFrameLoop (List.replicate 5 memPreset1) 3 0).packets ∧
      consume (inFrameLoop (List.replicate 5 memPreset1) 3 0) = .next u ∧
      u.reader.pktIdx - u.reader.curIdx < 5) :=
  ⟨⟨_, rfl, by decide +kernel, consume_next rfl (by decide +kernel) (by decide +kernel), by decide +kernel,
    by decide +kernel, rfl⟩,
    _, by decide +kernel, consume_next rfl (by decide +kernel) (by decide +kernel), by decide +kernel⟩

/-- With a change and without one. -/
theorem witness_FrameLoopAtEndOfStream :
    let s : State := inFrameLoop [memPreset1] 1 0
    (s.phase = .frameLoop ∧ s.reader.pktIdx = s.packets ∧ s.frame = some blankFrame ∧
      s.reader.curIdx = s.reader.nextIdx ∧ s.reader.curIdx ≤ s.reader.pktIdx) ∧
      ({ s with changed := true } : State).changed = true ∧ s.reader.curIdx < s.reader.pktIdx ∧ s.changed = false :=
  ⟨⟨rfl, by decide, rfl, rfl, by decide⟩, rfl, by decide, rfl⟩

theorem witness_EveryMoveEnds : StateInv w_move ∧ w_move.phase = .idle ∧ w_move.cfg.tileOob = .skip :=
  ⟨w_move_inv, rfl, rfl⟩

/-- A MOVE that delivers at the end of the stream. -/
theorem witness_DeliveredFramesAreSpaced : ∃ t d, StateInv w_move ∧ w_move.phase = .idle ∧
    transact .move w_move = .next t ∧ t.replies = w_move.replies ++ [.move (some d)] :=
  ⟨_, _, w_move_inv, rfl, rfl, rfl⟩

theorem witness_DeliveredFrameIsCanvasAtBoundary : ∃ t d, StateInv w_move ∧ Replayed w_move ∧ w_move.phase = .idle ∧
    transact .move w_move = .next t ∧ t.replies = w_move.replies ++ [.move (some d)] :=
  ⟨_, _, w_move_inv, replayed_of_start rfl rfl rfl, rfl, rfl, rfl⟩

theorem witness_MoveAtEndAnswersFalse : StateInv (at_ [defTranspRecord] 1 0 1 true) ∧
    (at_ [defTranspRecord] 1 0 1 true).phase = .idle ∧ (at_ [defTranspRecord] 1 0 1 true).reader.eos = true :=
  ⟨inv_of_fresh rfl (by decide) rfl (.inl rfl) (by decide) (by decide) rfl (by decide) ⟨rfl, .inl rfl, by decide⟩,
    rfl, rfl⟩

/-- One packet is 3 ms: 4 is beyond it. -/
theorem witness_SeekBeyondTotalFails : (loadedWith [memPreset1]).loaded = true ∧
    (loadedWith [memPreset1]).packets * 1000 / 300 < 4 := ⟨rfl, by decide⟩

/-- Two packets that change nothing, the first consumed. -/
def w_seek : State := at_ [defTranspRecord, defTranspRecord] 1 1 1 false

theorem w_seek_inv : StateInv w_seek :=
  inv_of_fresh rfl (by decide) rfl (.inl rfl) (by decide) (by decide) rfl (by decide) ⟨rfl, .inl rfl, by decide⟩

/-- A rewind (to packet 0) and the end itself (6 ms). -/
theorem witness_SeekLandsOnTarget : StateInv w_seek ∧ Replayed w_seek ∧ w_seek.phase = .idle ∧ w_seek.loaded = true ∧
    w_seek.cfg.tileOob = .skip ∧ 0 ≤ w_seek.packets * 1000 / 300 ∧ 6 ≤ w_seek.packets * 1000 / 300 ∧
    0 * 300 / 1000 < w_seek.reader.pktIdx :=
  ⟨w_seek_inv, ⟨_, rfl, rfl, rfl⟩, rfl, rfl, rfl, by decide, by decide, by decide⟩

theorem witness_StepsCarryOutTransaction : StateInv w_move ∧ w_move.phase = .idle ∧ w_move.pending = .move :: [] :=
  ⟨w_move_inv, rfl, rfl⟩

theorem witness_BufferWrittenOnlyByLoadAndUnload :
    ∃ t, step { State.reset with pending := [.load [0x09#8]] } = .next t := ⟨_, rfl⟩

/-- No packet; then a packet that changes the palette, the offsets, the cells. -/
theorem witness_CanvasWriters :
    (∃ t, step w_move = .next t ∧ wantsPacket w_move = false) ∧
    (∃ t, step (inFrameLoop [colorsLowRecord] 0 0) = .next t ∧ wantsPacket (inFrameLoop [colorsLowRecord] 0 0) = true ∧
      t.canvas.pal ≠ (inFrameLoop [colorsLowRecord] 0 0).canvas.pal) ∧
    (∃ t, step (inFrameLoop [scrollRecord] 0 0) = .next t ∧ wantsPacket (inFrameLoop [scrollRecord] 0 0) = true ∧
      t.canvas.hOff ≠ (inFrameLoop [scrollRecord] 0 0).canvas.hOff) ∧
    (∃ t, step (inFrameLoop [memPreset1] 0 0) = .next t ∧ wantsPacket (inFrameLoop [memPreset1] 0 0) = true ∧
      t.canvas.grid ≠ (inFrameLoop [memPreset1] 0 0).canvas.grid) := by
  refine ⟨⟨_, rfl, rfl⟩, ⟨_, rfl, rfl, ?_⟩, ⟨_, rfl, rfl, ?_⟩, ⟨_, rfl, rfl, ?_⟩⟩
  · decide +kernel
  · decide +kernel
  · intro h
    have h1 : (1#4 : Cell) = 0#4 := congrArg (fun g : Grid => g.cell 0 0) h
    exact absurd h1 (by decide)

/-- A packet; and a SEEK back. -/
theorem witness_CursorAdvancesOrRewinds : (∃ t, step (inFrameLoop [memPreset1] 0 0) = .next t) ∧
    ∃ t, step { w_seek with pending := [.seek 0] } = .next t := ⟨⟨_, rfl⟩, _, rfl⟩

theorem witness_FrameChangesOnlyBySnapshot : ∃ t, step w_move = .next t := ⟨_, rfl⟩

theorem witness_ParametersFixedRepliesGrow : ∃ t, step { State.reset with pending := [.totalMs] } = .next t := ⟨_, rfl⟩

/-- Streams of one and of two packets that agree on the first. -/
theorem witness_DecodingIsDeterministic : ∃ t, (loadedWith [memPreset1]).cfg = (loadedWith [memPreset1, defTranspRecord]).cfg ∧
    (loadedWith [memPreset1, defTranspRecord]).loaded = true ∧ 1 ≤ (loadedWith [memPreset1, defTranspRecord]).packets ∧
    (∀ k, k < 1 → (loadedWith [memPreset1]).buf.record k = (loadedWith [memPreset1, defTranspRecord]).buf.record k) ∧
    consumeMany 1 (loadedWith [memPreset1]).rewound = .next t :=
  ⟨_, rfl, rfl, by decide, by decide, rfl⟩

end Sys2Proof.Tests
end

/-! What a step does to the stream: the input buffer `buf` and the flag `loaded` (R32, R33, R68). -/

namespace Sys2Proof.Machine

/-- R68: no loop's test after a packet writes the input buffer or `loaded`. -/
theorem afterPacket_keeps_stream (s : State) :
    (afterPacket s).buf = s.buf ∧ (afterPacket s).loaded = s.loaded := by
  obtain ⟨-, -, h⟩ | ⟨-, -, h⟩ | ⟨h, -⟩ := afterPacket_cases s
  all_goals
    rw [h]
    exact ⟨rfl, rfl⟩

/-- R68: a packet consumed, with the loop's test after it, writes neither the input buffer nor `loaded`. -/
theorem consume_afterPacket_keeps_stream {s u : State} (h : consume s = .next u) :
    (afterPacket u).buf = s.buf ∧ (afterPacket u).loaded = s.loaded := by
  obtain ⟨hbuf, hloaded⟩ := afterPacket_keeps_stream u
  obtain ⟨hs, -, _, -, -, -, hu, hub, -⟩ := consume_facts h
  exact ⟨hbuf.trans hub, hloaded.trans (hu.trans hs.symm)⟩

/-- R68: the beginning of a transaction keeps the input buffer and `loaded`, unless it is a LOAD or an UNLOAD. -/
theorem begin_stream_cases (tr : Transaction) (s : State) :
    ((begin tr s).buf = s.buf ∧ (begin tr s).loaded = s.loaded) ∨ (∃ bytes, tr = .load bytes) ∨ tr = .unload := by
  obtain ⟨bytes, h, -⟩ | ⟨h, -⟩ | ⟨-, -, -, h⟩ | ⟨-, -, -, h⟩ | ⟨_, -, -, -, -, h⟩ | ⟨_, -, -, -, -, h⟩ | ⟨_, h⟩ :=
    begin_cases tr s
  case inl => exact .inr (.inl ⟨bytes, h⟩)
  case inr.inl => exact .inr (.inr h)
  all_goals
    rw [h]
    exact .inl ⟨rfl, rfl⟩

/-- Settles O55, by the cases of a step: only a transaction that begins can write the buffer, and of these only LOAD and
UNLOAD do. -/
theorem bufferWrittenOnlyByLoadAndUnload : Obligations.BufferWrittenOnlyByLoadAndUnload := by
  intro s t hstep
  obtain ⟨-, -, rfl⟩ | ⟨tr, rest, hidle, hpending, rfl⟩ | ⟨-, -, rfl⟩ | ⟨-, -, rfl⟩ | ⟨_, -, -, rfl⟩ |
    ⟨u, -, hu, rfl⟩ := step_cases hstep
  case inr.inl =>
    obtain hkept | ⟨bytes, rfl⟩ | rfl := begin_stream_cases tr (s.setPending rest)
    · exact .inl hkept
    · exact .inr (.inl ⟨bytes, rest, hidle, hpending, rfl, rfl, rfl, rfl, rfl⟩)
    · exact .inr (.inr ⟨rest, hidle, hpending, rfl, rfl, rfl, rfl, rfl⟩)
  case inr.inr.inr.inr.inr => exact .inl (consume_afterPacket_keeps_stream hu)
  all_goals exact .inl ⟨rfl, rfl⟩

end Sys2Proof.Machine

/-! What the decoder reads of a record (R81 to R84): six bits of byte 0, six bits of byte 1 and the sixteen data bytes,
and of these only the first where the packet is not a CDG packet. -/

namespace Sys2Proof

/-- R81, R82: a header field is kept by every change of its byte under the mask `0x3F`. -/
theorem setWidth_six_eq_of_mask_eq {a b : Byte} (h : a &&& 0x3F#8 = b &&& 0x3F#8) : a.setWidth 6 = b.setWidth 6 := by
  have hmask : ∀ x : Byte, (x &&& 0x3F#8).setWidth 6 = x.setWidth 6 := by decide
  rw [← hmask a, h, hmask b]

/-! ## A record with byte 0 or byte 1 replaced -/

@[simp] theorem cmdField_set_byte0 (p : Record) (b : Byte) : cmdField (p.set 0 b) = b.setWidth 6 := by
  simp [cmdField]

@[simp] theorem cmdField_set_byte1 (p : Record) (b : Byte) : cmdField (p.set 1 b) = cmdField p := by
  simp [cmdField]

@[simp] theorem instrField_set_byte0 (p : Record) (b : Byte) : instrField (p.set 0 b) = instrField p := by
  simp [instrField]

@[simp] theorem instrField_set_byte1 (p : Record) (b : Byte) : instrField (p.set 1 b) = b.setWidth 6 := by
  simp [instrField]

@[simp] theorem dataByte_set_byte0 (p : Record) (b : Byte) : dataByte (p.set 0 b) = dataByte p := by
  funext j
  have hne : 0 ≠ 4 + j.val := by omega
  simp [dataByte, hne]

@[simp] theorem dataByte_set_byte1 (p : Record) (b : Byte) : dataByte (p.set 1 b) = dataByte p := by
  funext j
  have hne : 1 ≠ 4 + j.val := by omega
  simp [dataByte, hne]

/-! ## What decides the decoding -/

/-- R81 to R84: the decoder reads the two header fields and the data bytes, and nothing else of a record. -/
theorem decodeRecord_congr {p q : Record} (hcmd : cmdField p = cmdField q) (hinstr : instrField p = instrField q)
    (hdata : dataByte p = dataByte q) : decodeRecord p = decodeRecord q := by
  simp only [decodeRecord, nibbleField, rowField, colField, tileRows, scrollCmdField, hOffField, vOffField, rgbFields,
    hcmd, hinstr, hdata]

/-- R96: a packet of another command is none of the nine. -/
theorem decodeRecord_of_nonCdg {p : Record} (h : cmdField p ≠ Config.cdgCommand) :
    decodeRecord p = .error .nonCdg := if_pos h

/-- R95 to R98: a packet is no CDG packet, or one of the nine instructions, or a CDG packet of an unused code. -/
theorem decodeRecord_cases (p : Record) :
    (cmdField p ≠ Config.cdgCommand ∧ decodeRecord p = .error .nonCdg) ∨
    (cmdField p = Config.cdgCommand ∧
      ((∃ i, decodeRecord p = .ok i) ∨ decodeRecord p = .error (.unusedCode (instrField p)))) := by
  by_cases hcmd : cmdField p = Config.cdgCommand
  · refine .inr ⟨hcmd, ?_⟩
    simp only [decodeRecord, hcmd, ne_eq, not_true_eq_false, if_false]
    split <;> simp
  · exact .inl ⟨hcmd, decodeRecord_of_nonCdg hcmd⟩

theorem decodeRecord_eq_nonCdg_iff (p : Record) : decodeRecord p = .error .nonCdg ↔ cmdField p ≠ Config.cdgCommand := by
  obtain ⟨hcmd, hdec⟩ | ⟨hcmd, ⟨i, hdec⟩ | hdec⟩ := decodeRecord_cases p <;> simp [hcmd, hdec]

/-- R95, R193: code 28 is DEFTRANSP. -/
theorem decodeRecord_eq_defTransp {p : Record} (hcmd : cmdField p = Config.cdgCommand)
    (hinstr : (instrField p).toNat = 28) : decodeRecord p = .ok .defTransp := by
  simp [decodeRecord, hcmd, hinstr]

/-- Settles O9: a byte that agrees under the mask has the same header field, and only a CDG packet's byte 1 is read. -/
theorem headerFieldsAreMasked : Obligations.HeaderFieldsAreMasked := by
  refine ⟨fun p b hmask => ?_, fun p => ?_, fun p b hmask => ?_, fun p b hcmd => ?_⟩
  · have hcmd : b.setWidth 6 = cmdField p := setWidth_six_eq_of_mask_eq hmask
    exact decodeRecord_congr (by simpa using hcmd) (by simp) (by simp)
  · rw [decodeRecord_eq_nonCdg_iff, ne_eq, cmdField_eq_iff]
  · have hinstr : b.setWidth 6 = instrField p := setWidth_six_eq_of_mask_eq hmask
    exact decodeRecord_congr (by simp) (by simpa using hinstr) (by simp)
  · have hnonCdg : cmdField p ≠ Config.cdgCommand := mt (cmdField_eq_iff p).mp hcmd
    rw [decodeRecord_of_nonCdg hnonCdg, decodeRecord_of_nonCdg (by simpa using hnonCdg)]

end Sys2Proof

/-! The effect of a record is that of what it decodes to, and under the policy `skip` every record has one (R98). -/

namespace Sys2Proof.Machine

theorem consumeRecord_congr {p q : Record} (h : decodeRecord p = decodeRecord q) (s : State) :
    consumeRecord p s = consumeRecord q s := by
  unfold consumeRecord
  rw [h]

/-- R98: under the policy `skip`, which refuses no tile, every record has its effect. -/
theorem consumeRecord_next_of_skip (p : Record) {s : State} (h : s.cfg.tileOob = .skip) :
    consumeRecord p s =
      .next ((s.setCanvas (recordEffect s.cfg p s.canvas).1).advance (recordEffect s.cfg p s.canvas).2) := by
  simp [consumeRecord_eq, recordRefuses_skip h]

/-- R113, R193: DEFTRANSP resets `last`, and is a no-op otherwise. -/
theorem consumeRecord_defTransp {p : Record} (h : decodeRecord p = .ok .defTransp) (s : State) :
    consumeRecord p s = .next ((s.setCanvas { s.canvas with last := .none }).advance false) := by
  unfold consumeRecord
  rw [h]
  rfl

/-- Settles O8: the parity bytes are outside the header fields and the data bytes, so the two records decode alike. -/
theorem parityBytesIgnored : Obligations.ParityBytesIgnored := by
  intro p q s hbytes
  have hcmd : cmdField p = cmdField q := congrArg (·.setWidth 6) (hbytes 0 (by omega) (by omega) (by omega) (by omega))
  have hinstr : instrField p = instrField q := congrArg (·.setWidth 6) (hbytes 1 (by omega) (by omega) (by omega) (by omega))
  have hdata : dataByte p = dataByte q :=
    funext fun j => hbytes (4 + j.val) (by omega) (by omega) (by omega) (by omega)
  exact consumeRecord_congr (decodeRecord_congr hcmd hinstr hdata) s

/-- Settles O11, by the three cases of the decoder; the effect of code 28 is that of DEFTRANSP. -/
theorem everyRecordHasAnEffect : Obligations.EveryRecordHasAnEffect := by
  refine ⟨fun p => ?_, fun p hcmd hinstr => ?_, fun p s hskip => ⟨_, consumeRecord_next_of_skip p hskip⟩⟩
  · obtain ⟨-, hnonCdg⟩ | ⟨-, hok | hunused⟩ := decodeRecord_cases p
    · exact .inr (.inl hnonCdg)
    · exact .inl hok
    · exact .inr (.inr ⟨_, hunused⟩)
  · have hdec : decodeRecord p = .ok .defTransp :=
      decodeRecord_eq_defTransp ((cmdField_eq_iff p).mpr hcmd) (by rw [instrField_toNat, hinstr]; rfl)
    have hkept (s : State) : PictureKept s.canvas { s.canvas with last := .none } := ⟨fun _ _ => rfl, rfl, rfl, rfl⟩
    exact ⟨hdec, fun s => ⟨_, consumeRecord_defTransp hdec s, hkept s, consumed_advance _ _ _⟩⟩

end Sys2Proof.Machine

/-! The consume step (R110): whatever the record at the cursor is, the bookkeeping is the same. -/

namespace Sys2Proof.Machine

/-- R110, R114: a next state of a record is its effect on the Canvas with the books kept, the cursor one further. -/
theorem consumed_of_consumeRecord {p : Record} {s t : State} (h : consumeRecord p s = .next t) :
    ∃ ch, Consumed s t ch := by
  rw [consumeRecord_eq] at h
  split at h
  case isTrue => cases h
  case isFalse =>
    cases h
    exact ⟨_, consumed_advance s _ _⟩

/-- Settles O18: where Consume is defined it is the effect of the record at the cursor, which the policy `skip` never
refuses, and which keeps the books of R110. -/
theorem consumeAdvancesByOne : Obligations.ConsumeAdvancesByOne := by
  intro s hloaded hleft
  rw [consume_eq_consumeRecord hloaded hleft]
  refine ⟨fun hskip => ⟨_, consumeRecord_next_of_skip _ hskip⟩, fun t ht => ?_⟩
  obtain ⟨ch, hconsumed⟩ := consumed_of_consumeRecord ht
  exact ⟨ch, hconsumed, ht⟩

end Sys2Proof.Machine

/-! BORDERPRESET (R131): the record that decodes to it and the cells that it leaves. -/

namespace Sys2Proof

/-- R95, R131: code 2 is BORDERPRESET of the low nibble of data[0]. -/
theorem decodeRecord_eq_borderPreset {p : Record} (hcmd : cmdField p = Config.cdgCommand)
    (hinstr : (instrField p).toNat = 2) : decodeRecord p = .ok (.borderPreset (nibbleField p 0)) := by
  simp [decodeRecord, hcmd, hinstr]

namespace Machine

/-- R131: a cell of a border band takes the colour, a cell of the interior is not written. -/
theorem cell_borderPreset (bottom : BorderBottom) (color : BitVec 4) (cv : Canvas) (r : Fin 216) (c : Fin 300) :
    (borderPreset bottom color cv).1.grid.cell r c =
      if r.val < 12 ∨ 216 - bottom.rows ≤ r.val ∨ c.val < 6 ∨ 294 ≤ c.val then color else cv.grid.cell r c :=
  cell_tabulate _ r c

/-- Settles O22: the record by its header fields, the state by the effect of BORDERPRESET, which no policy refuses and
whose rule replaces the grid alone. -/
theorem borderPresetFillsBands : Obligations.BorderPresetFillsBands := by
  refine ⟨fun p hcmd hinstr => ⟨nibbleField p 0, ?_, nibbleField_mask p 0⟩, fun color s => ?_⟩
  · have hcode : (instrField p).toNat = 2 := by rw [instrField_toNat, hinstr]; rfl
    exact decodeRecord_eq_borderPreset ((cmdField_eq_iff p).mpr hcmd) hcode
  · have hcells := cell_borderPreset s.cfg.borderBottom color s.canvas
    exact ⟨_, exec_next rfl, consumed_advance s _ true, hcells, rfl, rfl, rfl⟩

end Machine

end Sys2Proof

/-! What the nine rules keep of the picture (R114), and of what 10_state.md says of the Canvas (R36, R39). -/

namespace Sys2Proof.Machine

/-! ## MEMPRESET's two cases (R130) -/

theorem memoryPreset_repeat {color rep : BitVec 4} {cv : Canvas} (hrep : rep ≠ 0#4)
    (hlast : cv.last = .memoryPreset color) : memoryPreset color rep cv = (cv, false) := by
  simp [memoryPreset, isDedupRepeat, hrep, hlast]

theorem memoryPreset_fill {color rep : BitVec 4} {cv : Canvas} (h : rep = 0#4 ∨ cv.last ≠ .memoryPreset color) :
    memoryPreset color rep cv = ({ cv with grid := Grid.fill color }, true) := by
  obtain h | h := h <;> simp [memoryPreset, isDedupRepeat, h]

/-- R130: a MEMPRESET is a deduplicated repeat, or it fills the canvas. -/
theorem memoryPreset_cases (color rep : BitVec 4) (cv : Canvas) :
    (cv.last = .memoryPreset color ∧ memoryPreset color rep cv = (cv, false)) ∨
    memoryPreset color rep cv = ({ cv with grid := Grid.fill color }, true) := by
  by_cases h : rep = 0#4 ∨ cv.last ≠ .memoryPreset color
  · exact .inr (memoryPreset_fill h)
  · simp only [ne_eq, not_or, Decidable.not_not] at h
    exact .inl ⟨h.2, memoryPreset_repeat h.1 h.2⟩

/-! ## What a rule does not write -/

/-- R36: a rule writes the palette only if it is COLORSLOW's or COLORSHIGH's. -/
theorem effect_pal {cfg : Params} {i : Instr} {cv : Canvas} (hlow : ∀ rgb, i ≠ .colorsLow rgb)
    (hhigh : ∀ rgb, i ≠ .colorsHigh rgb) : (effect cfg i cv).1.pal = cv.pal := by
  cases i with
  | memPreset color rep => obtain ⟨-, h⟩ | h := memoryPreset_cases color rep cv <;> simp only [effect, h]
  | tile _ _ _ _ _ => simp only [effect]; split <;> rfl
  | tileXor _ _ _ _ _ => simp only [effect]; split <;> rfl
  | colorsLow rgb => exact absurd rfl (hlow rgb)
  | colorsHigh rgb => exact absurd rfl (hhigh rgb)
  | borderPreset _ => rfl
  | scrollPreset _ _ _ _ _ => rfl
  | scrollCopy _ _ _ _ => rfl
  | defTransp => rfl

/-- R37: a rule writes the offsets only if it is a scroll's. -/
theorem effect_offsets {cfg : Params} {i : Instr} {cv : Canvas}
    (hpreset : ∀ color hCmd hOff vCmd vOff, i ≠ .scrollPreset color hCmd hOff vCmd vOff)
    (hcopy : ∀ hCmd hOff vCmd vOff, i ≠ .scrollCopy hCmd hOff vCmd vOff) :
    (effect cfg i cv).1.hOff = cv.hOff ∧ (effect cfg i cv).1.vOff = cv.vOff := by
  cases i with
  | memPreset color rep => obtain ⟨-, h⟩ | h := memoryPreset_cases color rep cv <;> simp only [effect, h, and_self]
  | tile _ _ _ _ _ => simp only [effect]; split <;> exact ⟨rfl, rfl⟩
  | tileXor _ _ _ _ _ => simp only [effect]; split <;> exact ⟨rfl, rfl⟩
  | scrollPreset color hCmd hOff vCmd vOff => exact absurd rfl (hpreset color hCmd hOff vCmd vOff)
  | scrollCopy hCmd hOff vCmd vOff => exact absurd rfl (hcopy hCmd hOff vCmd vOff)
  | borderPreset _ => exact ⟨rfl, rfl⟩
  | defTransp => exact ⟨rfl, rfl⟩
  | colorsLow _ => exact ⟨rfl, rfl⟩
  | colorsHigh _ => exact ⟨rfl, rfl⟩

/-! ## The invariant of the Canvas -/

/-- R36, R39: the part of `StateInv` that speaks of the Canvas. -/
structure Canvas.Sound (cv : Canvas) : Prop where
  palette : ∀ (i : Nat) (h : i < 16), (cv.pal[i]).scaled
  lastPreset : ∀ c, cv.last = .memoryPreset c → ∀ row col, cv.grid.cell row col = c

theorem canvas_fresh_sound : Canvas.fresh.Sound where
  palette i h := by simp [Rgb.scaled]
  lastPreset c h := by simp at h

/-- R190: a colour load leaves scaled entries: new ones are scaled, the others are kept. -/
theorem loadColours_scaled {base : Nat} {hbase : base + 8 ≤ 16} {rgb : Vector Rgb12 8} {cv : Canvas}
    (hcv : ∀ (i : Nat) (h : i < 16), (cv.pal[i]).scaled) (i : Nat) (h : i < 16) :
    ((loadColours base hbase rgb cv).1.pal[i]).scaled := by
  simp only [loadColours, getElem_tabulate]
  split
  · exact unpack_scaled _
  · exact hcv i h

/-- R36: every rule keeps the channels multiples of 17. -/
theorem effect_scaled (cfg : Params) (i : Instr) {cv : Canvas} (hcv : ∀ (k : Nat) (h : k < 16), (cv.pal[k]).scaled)
    (k : Nat) (h : k < 16) : ((effect cfg i cv).1.pal[k]).scaled := by
  by_cases hlow : ∃ rgb, i = .colorsLow rgb
  · obtain ⟨rgb, rfl⟩ := hlow
    exact loadColours_scaled hcv k h
  by_cases hhigh : ∃ rgb, i = .colorsHigh rgb
  · obtain ⟨rgb, rfl⟩ := hhigh
    exact loadColours_scaled hcv k h
  · simpa only [effect_pal (not_exists.mp hlow) (not_exists.mp hhigh)] using hcv k h

theorem updateLast_eq_memoryPreset {i : Instr} {c : Cell} (h : updateLast i = .memoryPreset c) :
    ∃ rep, i = .memPreset c rep := by
  cases i with
  | memPreset color rep =>
    simp only [updateLast, LastCommand.memoryPreset.injEq] at h
    exact ⟨rep, by rw [h]⟩
  | _ => simp [updateLast] at h

/-- R39: after a MEMPRESET every cell is its colour, whether it filled the canvas or was a repeat. -/
theorem cell_memoryPreset {color rep : BitVec 4} {cv : Canvas} (hcv : cv.Sound) (r : Fin 216) (c : Fin 300) :
    (memoryPreset color rep cv).1.grid.cell r c = color := by
  obtain ⟨hlast, h⟩ | h := memoryPreset_cases color rep cv
  · rw [h]; exact hcv.lastPreset color hlast r c
  · rw [h]; exact cell_fill color r c

theorem effect_sound (cfg : Params) (i : Instr) {cv : Canvas} (hcv : cv.Sound) :
    Canvas.Sound { (effect cfg i cv).1 with last := updateLast i } where
  palette := effect_scaled cfg i hcv.palette
  lastPreset c h r k := by
    obtain ⟨rep, rfl⟩ := updateLast_eq_memoryPreset h
    exact cell_memoryPreset hcv r k

/-- R36, R39: every record, an instruction or not, keeps what is said of the Canvas. -/
theorem recordEffect_sound (cfg : Params) (p : Record) {cv : Canvas} (hcv : cv.Sound) :
    (recordEffect cfg p cv).1.Sound := by
  unfold recordEffect
  split
  · exact effect_sound cfg _ hcv
  · exact ⟨hcv.palette, fun c h => by cases h⟩
  · exact hcv

end Sys2Proof.Machine

/-! The invariant of the machine, part by part, and that every step keeps it. -/

namespace Sys2Proof.Machine

/-- R43 to R45: the part of `StateInv` that speaks of the Reader, for a stream of `n` packets. -/
structure Reader.Sound (n : Nat) (r : Reader) : Prop where
  curIdx_le : r.curIdx ≤ r.nextIdx
  nextIdx_le : r.nextIdx ≤ r.pktIdx
  pktIdx_le : r.pktIdx ≤ n
  lastChange : ∀ k, r.lastChange = some k → k < r.pktIdx
  eos : r.eos = true → r.pktIdx = n

/-- R47, R210: the part of `StateInv` that speaks of the frame. -/
def FrameSound (cfg : Params) (frame : Option Memory) : Prop :=
  ∀ f, frame = some f → f.wf = true ∧ f.size = cfg.imageSize

theorem frameSound_none (cfg : Params) : FrameSound cfg none := fun _ h => by cases h

theorem frameSound_snapshot (cfg : Params) (cv : Canvas) : FrameSound cfg (some (snapshot cfg cv)) := by
  rintro f ⟨⟩
  exact ⟨snapshot_wf cfg cv, snapshot_size cfg cv⟩

/-! ## The Reader -/

theorem reader_fresh_sound (n : Nat) : Reader.fresh.Sound n := ⟨le_rfl, le_rfl, Nat.zero_le n, by simp, by simp⟩

/-- R43, R44: a packet that is left keeps the order of the cursors and the last change below the cursor. -/
theorem reader_consumed_sound {n : Nat} {r : Reader} (h : r.Sound n) (hleft : r.pktIdx < n) (ch : Bool) :
    (r.consumed ch).Sound n where
  curIdx_le := h.curIdx_le
  nextIdx_le := Nat.le_succ_of_le h.nextIdx_le
  pktIdx_le := hleft
  lastChange k hk := by
    cases ch with
    | true => cases hk; exact Nat.lt_succ_self _
    | false => exact Nat.lt_succ_of_lt (h.lastChange k hk)
  eos he := absurd (h.eos he) (Nat.ne_of_lt hleft)

/-- R43, R45: boundaries below the cursor may be placed, and `eos` set where the stream is at its end. -/
theorem reader_boundaries_sound {n : Nat} {r : Reader} (h : r.Sound n) {cur nxt : Nat} {e : Bool} (st : Bool)
    (hcur : cur ≤ nxt) (hnxt : nxt ≤ r.pktIdx) (he : e = true → r.pktIdx = n) :
    Reader.Sound n { r with curIdx := cur, nextIdx := nxt, eos := e, started := st } :=
  ⟨hcur, hnxt, h.pktIdx_le, h.lastChange, he⟩

/-- The stop test needs a change. -/
theorem stopTest_of_unchanged {s : State} (h : s.changed = false) : stopTest s = false := by
  simp [stopTest, h]

/-! ## A sound state with a stream -/

/-- All that the invariant says of a state with a stream, but for its phase. -/
structure StreamSound (s : State) : Prop where
  loaded : s.loaded = true
  bufWf : s.buf.wf = true
  frame : FrameSound s.cfg s.frame
  reader : s.reader.Sound s.packets
  canvas : s.canvas.Sound

theorem StateInv.streamSound {s : State} (h : StateInv s) (hloaded : s.loaded = true) : StreamSound s where
  loaded := hloaded
  bufWf := h.bufWf
  frame := h.frameWf
  reader := by
    obtain ⟨hcur, hnext, hpkt⟩ := h.cursors
    exact ⟨hcur, hnext, hpkt, h.lastChange, h.eos⟩
  canvas := ⟨h.palette, h.lastPreset⟩

theorem StreamSound.stateInv {s : State} (h : StreamSound s) (hphase : PhaseOk s) : StateInv s where
  bufWf := h.bufWf
  frameWf := h.frame
  cursors := ⟨h.reader.curIdx_le, h.reader.nextIdx_le, h.reader.pktIdx_le⟩
  lastChange := h.reader.lastChange
  eos := h.reader.eos
  palette := h.canvas.palette
  lastPreset := h.canvas.lastPreset
  unloaded hl := by rw [h.loaded] at hl; cases hl
  phaseOk := hphase

namespace StreamSound

theorem setReader {s : State} (h : StreamSound s) {r : Reader} (hr : r.Sound s.packets) : StreamSound (s.setReader r) :=
  ⟨h.loaded, h.bufWf, h.frame, hr, h.canvas⟩

/-- R110: a packet keeps everything sound. -/
theorem consume {s u : State} (h : StreamSound s) (hu : consume s = .next u) : StreamSound u := by
  obtain ⟨-, hleft, ch, hreader, -, hcfg, hloaded, hbuf, hframe, -⟩ := consume_facts hu
  refine ⟨hloaded, by rw [hbuf]; exact h.bufWf, by rw [hcfg, hframe]; exact h.frame, ?_, ?_⟩
  · rw [hreader, State.packets, hbuf]
    exact reader_consumed_sound h.reader hleft ch
  · rw [consume_canvas hu]
    exact recordEffect_sound _ _ h.canvas

/-- R241: the frame loop starts with a new frame and no change seen. -/
theorem stateInv_enterFrameLoop {s : State} (h : StreamSound s) (hstarted : s.reader.started = true) :
    StateInv (enterFrameLoop s) := by
  have hreader := reader_boundaries_sound h.reader s.reader.started le_rfl h.reader.nextIdx_le h.reader.eos
  have hsound : StreamSound (enterFrameLoop s) :=
    ⟨h.loaded, h.bufWf, frameSound_snapshot _ _, hreader, h.canvas⟩
  exact hsound.stateInv ⟨h.loaded, hstarted, rfl, rfl, stopTest_of_unchanged rfl⟩

/-- R240, R243: the next boundary may be set at the cursor. -/
theorem setBoundary {s : State} (h : StreamSound s) :
    StreamSound (s.setReader { s.reader with nextIdx := s.reader.pktIdx }) :=
  h.setReader (reader_boundaries_sound h.reader s.reader.started (h.reader.curIdx_le.trans h.reader.nextIdx_le) le_rfl
    h.reader.eos)

/-- R240: the baseline is established, at a change or at the end of the stream. -/
theorem stateInv_baselineDone {s : State} (h : StreamSound s) (hstarted : s.reader.started = true) :
    StateInv (baselineDone s) :=
  h.setBoundary.stateInv_enterFrameLoop hstarted

theorem stateInv_baselineEnd {s : State} (h : StreamSound s) (hend : s.reader.pktIdx = s.packets)
    (hstarted : s.reader.started = true) : StateInv (baselineEnd s) := by
  have hreader := reader_boundaries_sound (e := true) h.reader s.reader.started h.reader.curIdx_le h.reader.nextIdx_le
    fun _ => hend
  exact (h.setReader hreader).stateInv_baselineDone hstarted

/-- A transaction ends in an idle block whose next boundary is the cursor, or whose stream is at its end. -/
theorem stateInv_finish {s : State} (h : StreamSound s) (r : Response)
    (hnext : s.reader.nextIdx = s.reader.pktIdx ∨ s.reader.pktIdx = s.packets) (hstarted : s.reader.started = true) :
    StateInv (finish r s) := by
  have hsound : StreamSound (finish r s) := ⟨h.loaded, h.bufWf, h.frame, h.reader, h.canvas⟩
  have hnotFresh : s.reader.started = false → s.reader = Reader.fresh ∧ s.canvas = Canvas.fresh ∧ s.frame = none := by
    simp [hstarted]
  exact hsound.stateInv ⟨rfl, hnext, hnotFresh⟩

theorem stateInv_moveStop {s : State} (h : StreamSound s) (hstarted : s.reader.started = true) :
    StateInv (moveStop s) :=
  h.setBoundary.stateInv_finish _ (.inl rfl) hstarted

theorem stateInv_moveEof {s : State} (h : StreamSound s) (hend : s.reader.pktIdx = s.packets)
    (hstarted : s.reader.started = true) : StateInv (moveEof s) := by
  have hcur := h.reader.curIdx_le
  have hnext := h.reader.nextIdx_le
  have hboundary : s.reader.curIdx ≤ (if s.changed then s.reader.pktIdx else s.reader.nextIdx) ∧
      (if s.changed then s.reader.pktIdx else s.reader.nextIdx) ≤ s.reader.pktIdx := by split <;> omega
  exact (h.setReader (reader_boundaries_sound h.reader _ hboundary.1 hboundary.2 fun _ => hend)).stateInv_finish _
    (.inr hend) hstarted

theorem stateInv_seekDone {s : State} (h : StreamSound s) : StateInv (seekDone s.reader.pktIdx s) :=
  (h.setReader (reader_boundaries_sound h.reader _ le_rfl le_rfl h.reader.eos)).stateInv_finish _ (.inl rfl) rfl

end StreamSound

/-! ## One packet and the test after it -/

/-- R240, R242, R250: what the phase says of a state carries over a packet, where the loop goes on. -/
theorem phaseOk_consume {s u : State} (h : PhaseOk s) (hwants : wantsPacket s = true) (hu : consume s = .next u)
    (hbase : u.phase = .baseline → u.changed = false) (hloop : u.phase = .frameLoop → stopTest u = false) :
    PhaseOk u := by
  obtain ⟨-, -, ch, hreader, hchanged, -, hloaded, hbuf, hframe, -, hphase, -⟩ := consume_facts hu
  obtain ⟨hp, -⟩ | ⟨hp, -⟩ | ⟨target, hp, hlt⟩ := wantsPacket_cases hwants <;> rw [hp] at hphase <;>
    simp only [PhaseOk, hp, hphase] at h ⊢
  · obtain ⟨-, -, hstarted, hcur, hnext, hlast, hnone⟩ := h
    have hsame := hbase hphase
    have hch : ch = false := by rw [hchanged, Bool.or_eq_false_iff] at hsame; exact hsame.2
    rw [hreader, hframe, hch]
    exact ⟨hloaded, hsame, hstarted, hcur, hnext, hlast, hnone⟩
  · obtain ⟨-, hstarted, hcur, hsome, -⟩ := h
    refine ⟨hloaded, ?_, ?_, ?_, hloop hphase⟩
    · rw [hreader]; exact hstarted
    · rw [hreader]; exact hcur
    · rw [hframe]; exact hsome
  · obtain ⟨-, -, hle⟩ := h
    rw [hreader, State.packets, hbuf]
    exact ⟨hloaded, hlt, hle⟩

/-- The loops of MOVE run only after it has started. -/
theorem PhaseOk.started {s : State} (h : PhaseOk s) (hp : s.phase = .baseline ∨ s.phase = .frameLoop) :
    s.loaded = true ∧ s.reader.started = true := by
  obtain hp | hp := hp <;> simp only [PhaseOk, hp] at h
  · obtain ⟨hloaded, -, hstarted, -⟩ := h
    exact ⟨hloaded, hstarted⟩
  · obtain ⟨hloaded, hstarted, -⟩ := h
    exact ⟨hloaded, hstarted⟩

theorem stateInv_afterPacket {s u : State} (h : StateInv s) (hwants : wantsPacket s = true)
    (hu : consume s = .next u) : StateInv (afterPacket u) := by
  obtain ⟨hloaded, -, ch, hreader, -, -, -, -, -, -, hphase, -⟩ := consume_facts hu
  have hsound : StreamSound u := (h.streamSound hloaded).consume hu
  have hstarted (hp : u.phase = .baseline ∨ u.phase = .frameLoop) : u.reader.started = true := by
    rw [hreader]
    exact (h.phaseOk.started (hphase ▸ hp)).2
  obtain ⟨hp, -, hafter⟩ | ⟨hp, -, hafter⟩ | ⟨hafter, hbase, hloop⟩ := afterPacket_cases u <;> rw [hafter]
  · exact hsound.stateInv_baselineDone (hstarted (.inl hp))
  · exact hsound.stateInv_moveStop (hstarted (.inr hp))
  · exact hsound.stateInv (phaseOk_consume h.phaseOk hwants hu hbase hloop)

/-! ## A transaction begins -/

/-- R49, R70: the invariant does not speak of the host's side. -/
theorem stateInv_hostSide {s : State} (h : StateInv s) (pending : List Transaction) (replies : List Response) :
    StateInv { s with pending := pending, replies := replies } where
  bufWf := h.bufWf
  frameWf := h.frameWf
  cursors := h.cursors
  lastChange := h.lastChange
  eos := h.eos
  palette := h.palette
  lastPreset := h.lastPreset
  unloaded := h.unloaded
  phaseOk := h.phaseOk

/-- R250: a SEEK within the total aims at a packet boundary of the stream. -/
theorem msToPkt_le_packets {s : State} {ms : Nat} (h : ms ≤ totalMs s) : msToPkt ms ≤ s.packets := by
  simp only [totalMs, pktToMs, msToPkt, Config.packetsPerSecond] at h ⊢
  omega

theorem phaseOk_idle {s : State} (hp : s.phase = .idle) : PhaseOk s ↔
    s.changed = false ∧ (s.reader.nextIdx = s.reader.pktIdx ∨ s.reader.pktIdx = s.packets) ∧
      (s.reader.started = false → s.reader = Reader.fresh ∧ s.canvas = Canvas.fresh ∧ s.frame = none) := by
  simp only [PhaseOk, hp]

/-- R230: LOAD leaves a sound stream with everything fresh. -/
theorem stateInv_loadStream {s : State} (hp : s.phase = .idle) (hchanged : s.changed = false) (bytes : List Byte) :
    StateInv (loadStream bytes s) := by
  have hsound : StreamSound (loadStream bytes s) :=
    ⟨rfl, Memory.ofBytes_wf bytes, frameSound_none _, reader_fresh_sound _, canvas_fresh_sound⟩
  exact hsound.stateInv ((phaseOk_idle (s := loadStream bytes s) hp).mpr ⟨hchanged, .inl rfl, fun _ => ⟨rfl, rfl, rfl⟩⟩)

/-- R231: UNLOAD leaves no stream and everything fresh. -/
theorem stateInv_unloadStream {s : State} (hp : s.phase = .idle) (hchanged : s.changed = false) :
    StateInv (unloadStream s) where
  bufWf := rfl
  frameWf := frameSound_none _
  cursors := ⟨le_rfl, le_rfl, Nat.zero_le _⟩
  lastChange := (reader_fresh_sound 0).lastChange
  eos he := by cases he
  palette := canvas_fresh_sound.palette
  lastPreset := canvas_fresh_sound.lastPreset
  unloaded _ := ⟨rfl, rfl, rfl, rfl⟩
  phaseOk := (phaseOk_idle (s := unloadStream s) hp).mpr ⟨hchanged, .inl rfl, fun _ => ⟨rfl, rfl, rfl⟩⟩

/-- R240: the first MOVE enters the baseline loop, everything still being fresh. -/
theorem stateInv_enterBaseline {s : State} (h : StateInv s) (hp : s.phase = .idle) (hloaded : s.loaded = true)
    (hstarted : s.reader.started = false) :
    StateInv { s with reader := { s.reader with started := true }, changed := false, phase := .baseline } := by
  obtain ⟨-, -, hfresh⟩ := (phaseOk_idle hp).mp h.phaseOk
  obtain ⟨hreader, -, hframe⟩ := hfresh hstarted
  obtain ⟨-, hbuf, hfs, hrs, hcs⟩ := h.streamSound hloaded
  have hrs' := reader_boundaries_sound hrs true hrs.curIdx_le hrs.nextIdx_le hrs.eos
  exact StreamSound.stateInv ⟨hloaded, hbuf, hfs, hrs', hcs⟩
    ⟨hloaded, rfl, rfl, by simp [hreader], by simp [hreader], by simp [hreader], hframe⟩

/-- R250: a SEEK enters its loop below its target. -/
theorem StreamSound.stateInv_enterSeek {s : State} (h : StreamSound s) {target : Nat}
    (hle : s.reader.pktIdx ≤ target) (htarget : target ≤ s.packets) : StateInv (s.setPhase (.seekTo target)) := by
  have hsound : StreamSound (s.setPhase (.seekTo target)) := ⟨h.loaded, h.bufWf, h.frame, h.reader, h.canvas⟩
  exact hsound.stateInv ⟨h.loaded, hle, htarget⟩

theorem StreamSound.rewound {s : State} (h : StreamSound s) : StreamSound s.rewound :=
  ⟨h.loaded, h.bufWf, h.frame, reader_fresh_sound _, canvas_fresh_sound⟩

theorem stateInv_begin {s : State} (h : StateInv s) (hp : s.phase = .idle) (tr : Transaction) :
    StateInv (begin tr s) := by
  obtain ⟨hchanged, -, -⟩ := (phaseOk_idle hp).mp h.phaseOk
  obtain ⟨bytes, -, hbegin⟩ | ⟨-, hbegin⟩ | ⟨-, hloaded, hstarted, hbegin⟩ | ⟨-, hloaded, hstarted, hbegin⟩ |
    ⟨ms, -, hloaded, hms, -, hbegin⟩ | ⟨ms, -, hloaded, hms, hle, hbegin⟩ | ⟨r, hbegin⟩ := begin_cases tr s <;>
    rw [hbegin]
  · exact stateInv_hostSide (stateInv_loadStream hp hchanged bytes) _ _
  · exact stateInv_hostSide (stateInv_unloadStream hp hchanged) _ _
  · exact stateInv_enterBaseline h hp hloaded hstarted
  · exact (h.streamSound hloaded).stateInv_enterFrameLoop hstarted
  · exact (h.streamSound hloaded).rewound.stateInv_enterSeek (Nat.zero_le _) (msToPkt_le_packets hms)
  · exact (h.streamSound hloaded).stateInv_enterSeek hle (msToPkt_le_packets hms)
  · exact stateInv_hostSide h _ _

/-- Settles O3, by the cases of a step: the pieces of a transaction one by one, and a packet through what its record
keeps of the Canvas. -/
theorem stepKeepsInv : Obligations.StepKeepsInv := by
  intro s t h hstep
  obtain ⟨-, -, rfl⟩ | ⟨tr, rest, hp, -, rfl⟩ | ⟨hp, hend, rfl⟩ | ⟨hp, hend, rfl⟩ | ⟨target, hp, hle, rfl⟩ |
    ⟨u, hwants, hu, rfl⟩ := step_cases hstep
  · exact h
  · exact stateInv_begin (stateInv_hostSide h rest s.replies) hp tr
  · obtain ⟨hloaded, hstarted⟩ := h.phaseOk.started (.inl hp)
    exact (h.streamSound hloaded).stateInv_baselineEnd hend hstarted
  · obtain ⟨hloaded, hstarted⟩ := h.phaseOk.started (.inr hp)
    exact (h.streamSound hloaded).stateInv_moveEof hend hstarted
  · have hok := h.phaseOk
    simp only [PhaseOk, hp] at hok
    obtain ⟨hloaded, hge, -⟩ := hok
    obtain rfl : s.reader.pktIdx = target := Nat.le_antisymm hge hle
    exact (h.streamSound hloaded).stateInv_seekDone
  · exact stateInv_afterPacket h hwants hu

/-! ## No fault (R280) -/

/-- R282: only under the policy `refuse` is a record refused. -/
theorem tileOob_of_recordRefuses {cfg : Params} {p : Record} (h : recordRefuses cfg p = true) :
    cfg.tileOob = .refuse := by
  cases hk : cfg.tileOob with
  | refuse => rfl
  | skip => rw [recordRefuses_skip hk] at h; cases h

/-- R110, R282: where a packet is left, Consume goes on or refuses by name. -/
theorem consume_next_or_refused {s : State} (hloaded : s.loaded = true) (hleft : s.reader.pktIdx < s.packets) :
    (∃ u, consume s = .next u) ∨ (s.cfg.tileOob = .refuse ∧ consume s = .refused .tileOutsideCanvas) := by
  cases hr : recordRefuses s.cfg (s.buf.record s.reader.pktIdx) with
  | false => exact .inl ⟨_, consume_next hloaded hleft hr⟩
  | true =>
    refine .inr ⟨tileOob_of_recordRefuses hr, ?_⟩
    rw [consume_eq_consumeRecord hloaded hleft, consumeRecord_eq, if_pos hr]

theorem step_of_wantsPacket {s : State} (h : wantsPacket s = true) :
    step s = andThen (consume s) fun t => .next (afterPacket t) := by
  unfold step runPhase
  rw [if_pos h]

theorem step_of_not_wantsPacket {s : State} (h : wantsPacket s = false) : step s = .next (withoutPacket s) := by
  simp [step, runPhase, h]

/-- Settles O5: a step without a packet answers a next state, and a packet that is wanted is there to be consumed. -/
theorem stepNeverFaults : Obligations.StepNeverFaults := by
  intro s h
  cases hw : wantsPacket s with
  | false => exact .inl ⟨_, step_of_not_wantsPacket hw⟩
  | true =>
    obtain ⟨hloaded, hleft⟩ := wantsPacket_left h hw
    rw [step_of_wantsPacket hw]
    obtain ⟨u, hu⟩ | ⟨hpolicy, hu⟩ := consume_next_or_refused hloaded hleft
    · exact .inl ⟨afterPacket u, by rw [hu]; rfl⟩
    · exact .inr ⟨hpolicy, by rw [hu]; rfl⟩

/-- Settles O6, by induction on the length of the run: no step of it faults, and each keeps the invariant. -/
theorem everyRunIsSafe : Obligations.EveryRunIsSafe := by
  intro n
  induction n with
  | zero => exact fun _ _ => trivial
  | succ n ih =>
    intro s h
    unfold SafeFor
    obtain ⟨t, ht⟩ | ⟨-, hrefused⟩ := stepNeverFaults s h
    · rw [ht]; exact ih t (stepKeepsInv s t h ht)
    · rw [hrefused]; trivial

end Sys2Proof.Machine

/-! The replay property (R116, R252): what each step does to what consuming packets reads. -/

namespace Sys2Proof.Machine

/-- R230, R231, R250: the transactions that make Canvas and Reader fresh where they reach the block. -/
def Transaction.Rewinds (tr : Transaction) (s : State) : Prop :=
  (∃ bytes, tr = .load bytes) ∨ tr = .unload ∨ ∃ ms, tr = .seek ms ∧ msToPkt ms < s.reader.pktIdx

theorem sameReplay_refl (s : State) : SameReplay s s := ⟨rfl, rfl, rfl, rfl, rfl, rfl⟩

theorem sameReplay_afterPacket (s : State) : SameReplay s (afterPacket s) := by
  obtain ⟨-, -, h⟩ | ⟨-, -, h⟩ | ⟨h, -⟩ := afterPacket_cases s
  all_goals
    rw [h]
    exact ⟨rfl, rfl, rfl, rfl, rfl, rfl⟩

/-- A transaction that begins rewinds, or leaves alone what consuming packets reads. -/
theorem begin_replay_cases (tr : Transaction) (s : State) :
    SameReplay s (begin tr s) ∨
    ((begin tr s).canvas = Canvas.fresh ∧ (begin tr s).reader = Reader.fresh ∧ tr.Rewinds s) := by
  obtain ⟨bytes, htr, h⟩ | ⟨htr, h⟩ | ⟨-, -, -, h⟩ | ⟨-, -, -, h⟩ | ⟨ms, htr, -, -, hlt, h⟩ | ⟨_, -, -, -, -, h⟩ |
    ⟨_, h⟩ := begin_cases tr s <;> rw [h]
  · exact .inr ⟨rfl, rfl, .inl ⟨bytes, htr⟩⟩
  · exact .inr ⟨rfl, rfl, .inr (.inl htr)⟩
  · exact .inl ⟨rfl, rfl, rfl, rfl, rfl, rfl⟩
  · exact .inl ⟨rfl, rfl, rfl, rfl, rfl, rfl⟩
  · exact .inr ⟨rfl, rfl, .inr (.inr ⟨ms, htr, hlt⟩)⟩
  · exact .inl ⟨rfl, rfl, rfl, rfl, rfl, rfl⟩
  · exact .inl ⟨rfl, rfl, rfl, rfl, rfl, rfl⟩

/-- A step consumes one packet, or rewinds as a transaction begins, or leaves alone what consuming packets reads. -/
theorem step_replay_cases {s t : State} (h : step s = .next t) :
    (wantsPacket s = false ∧ SameReplay s t) ∨
    (wantsPacket s = false ∧ s.phase = .idle ∧ t.canvas = Canvas.fresh ∧ t.reader = Reader.fresh ∧
      ∃ tr rest, s.pending = tr :: rest ∧ tr.Rewinds s) ∨
    (wantsPacket s = true ∧ ∃ u, consume s = .next u ∧ SameReplay u t) := by
  obtain ⟨hp, -, rfl⟩ | ⟨tr, rest, hp, hpending, rfl⟩ | ⟨hp, hend, rfl⟩ | ⟨hp, hend, rfl⟩ | ⟨target, hp, hle, rfl⟩ |
    ⟨u, hwants, hu, rfl⟩ := step_cases h
  · exact .inl ⟨by simp [wantsPacket, hp], sameReplay_refl t⟩
  · have hwants : wantsPacket s = false := by simp [wantsPacket, hp]
    obtain hsame | ⟨hcanvas, hreader, hrewinds⟩ := begin_replay_cases tr (s.setPending rest)
    · exact .inl ⟨hwants, hsame⟩
    · exact .inr (.inl ⟨hwants, hp, hcanvas, hreader, tr, rest, hpending, hrewinds⟩)
  · exact .inl ⟨by simp [wantsPacket, hp, hend], rfl, rfl, rfl, rfl, rfl, rfl⟩
  · exact .inl ⟨by simp [wantsPacket, hp, hend], rfl, rfl, rfl, rfl, rfl, rfl⟩
  · exact .inl ⟨by simp [wantsPacket, hp, hle], rfl, rfl, rfl, rfl, rfl, rfl⟩
  · exact .inr (.inr ⟨hwants, u, hu, sameReplay_afterPacket u⟩)

theorem replayed_of_fresh {s : State} (hcanvas : s.canvas = Canvas.fresh) (hreader : s.reader = Reader.fresh) :
    Replayed s :=
  ⟨s.rewound, by rw [hreader]; rfl, hcanvas.symm, by rw [hreader]; rfl⟩

/-- The state that a replay reaches is not told apart from the one it replays. -/
theorem sameReplay_of_replay {s u : State} (hu : consumeMany s.reader.pktIdx s.rewound = .next u)
    (hcanvas : u.canvas = s.canvas) (hlast : u.reader.lastChange = s.reader.lastChange) : SameReplay s u := by
  obtain ⟨hidx, -, -, -, -, hcfg, hloaded, hbuf, -⟩ := consumeMany_facts _ hu
  exact ⟨hcfg, hloaded, hbuf, hcanvas, by simpa using hidx, hlast⟩

/-- One packet more, and one packet more of the replay. -/
theorem replayed_consume {s u : State} (h : Replayed s) (hu : consume s = .next u) : Replayed u := by
  obtain ⟨v, hv, hcanvas, hlast⟩ := h
  obtain ⟨w, hw, hsame⟩ := consume_sameReplay (sameReplay_of_replay hv hcanvas hlast) hu
  obtain ⟨hloaded, -, ch, hreader, -, hcfg, hloadedU, hbuf, -⟩ := consume_facts hu
  have hreplay : consumeMany (s.reader.pktIdx + 1) s.rewound = .next w := by rw [consumeMany_succ, hv]; exact hw
  have hidx : u.reader.pktIdx = s.reader.pktIdx + 1 := by rw [hreader]; rfl
  obtain ⟨x, hx, hsame'⟩ :=
    consumeMany_sameReplay _ (sameReplay_rewound hcfg (hloadedU.trans hloaded.symm) hbuf) hreplay
  obtain ⟨-, -, -, hc, -, hl⟩ := hsame
  obtain ⟨-, -, -, hc', -, hl'⟩ := hsame'
  exact ⟨x, by rw [hidx]; exact hx, hc'.trans hc, hl'.trans hl⟩

/-- Settles O4: a step that consumes no packet keeps what the replay reads or makes all fresh, and a packet is one more
of the replay. -/
theorem stepKeepsReplayed : Obligations.StepKeepsReplayed := by
  intro s t h hstep
  obtain ⟨-, hsame⟩ | ⟨-, -, hcanvas, hreader, -⟩ | ⟨-, u, hu, hsame⟩ := step_replay_cases hstep
  · exact replayed_of_sameReplay h hsame
  · exact replayed_of_fresh hcanvas hreader
  · exact replayed_of_sameReplay (replayed_consume h hu) hsame

/-- Settles O57: with the packet the cursor advances, and a rewind sets it to the fresh Reader's. -/
theorem cursorAdvancesOrRewinds : Obligations.CursorAdvancesOrRewinds := by
  intro s t hstep
  obtain ⟨hwants, -, -, -, -, hidx, -⟩ | ⟨-, hp, -, hreader, hrewinds⟩ | ⟨hwants, u, hu, -, -, -, -, hidx, -⟩ :=
    step_replay_cases hstep
  · exact .inr (.inl ⟨hwants, hidx⟩)
  · exact .inr (.inr ⟨hp, by rw [hreader]; rfl, hrewinds⟩)
  · obtain ⟨-, -, ch, hreader, -⟩ := consume_facts hu
    exact .inl ⟨hwants, by rw [hidx, hreader]; rfl⟩

/-! ## Two streams with the same first packets -/

/-- R49, R116: consuming packets reads no more of a stream than the records it consumes. -/
theorem consumeMany_of_same_records (n : Nat) {s s' t : State} (hcfg : s.cfg = s'.cfg) (hloaded : s'.loaded = true)
    (hleft : s.reader.pktIdx + n ≤ s'.packets)
    (hrecords : ∀ k, k < s.reader.pktIdx + n → s.buf.record k = s'.buf.record k)
    (hcanvas : s'.canvas = s.canvas) (hreader : s'.reader = s.reader) (h : consumeMany n s = .next t) :
    ∃ t', consumeMany n s' = .next t' ∧ t'.canvas = t.canvas ∧ t'.reader = t.reader := by
  induction n generalizing s s' with
  | zero =>
    simp only [consumeMany, Host.Outcome.next.injEq] at h
    subst h
    exact ⟨s', rfl, hcanvas, hreader⟩
  | succ n ih =>
    obtain ⟨u, hu, ht⟩ := andThen_eq_next h
    obtain ⟨-, -, hr, hu'⟩ := consume_eq_next.mp hu
    have hrecord := hrecords s.reader.pktIdx (by omega)
    have hnext := consume_next hloaded (by rw [hreader]; omega) (by rw [← hcfg, hreader, ← hrecord]; exact hr)
    rw [← hcfg, hreader, ← hrecord, hcanvas] at hnext
    generalize recordEffect s.cfg (s.buf.record s.reader.pktIdx) s.canvas = res at hu' hnext
    subst hu'
    obtain ⟨t', ht', hsame⟩ := ih (s := (s.setCanvas res.1).advance res.2)
      (s' := (s'.setCanvas res.1).advance res.2) hcfg hloaded (by simp; omega)
      (fun k hk => hrecords k (by simp at hk; omega)) rfl (by simp [hreader]) ht
    exact ⟨t', by rw [consumeMany, hnext]; exact ht', hsame⟩

/-- Settles O60, from a fresh start of both streams. -/
theorem decodingIsDeterministic : Obligations.DecodingIsDeterministic := by
  intro n s s' t hcfg hloaded hleft hrecords h
  exact consumeMany_of_same_records n (s := s.rewound) (s' := s'.rewound) hcfg hloaded (by simpa using hleft)
    (by simpa using hrecords) rfl rfl h

end Sys2Proof.Machine

/-! Who writes the Canvas (R34, R36, R37, R50), the frame (R47), the parameters and the responses (R49, R233). -/

namespace Sys2Proof.Machine

/-- R110 to R113: a record has the effect of its instruction, or writes at most `last`. -/
theorem recordEffect_cases (cfg : Params) (p : Record) (cv : Canvas) :
    (∃ i, decodeRecord p = .ok i ∧
      recordEffect cfg p cv = ({ (effect cfg i cv).1 with last := updateLast i }, (effect cfg i cv).2)) ∨
    ∃ last, recordEffect cfg p cv = ({ cv with last := last }, false) := by
  unfold recordEffect
  split
  next i hi => exact .inl ⟨i, hi, rfl⟩
  · exact .inr ⟨.none, rfl⟩
  · exact .inr ⟨cv.last, rfl⟩

/-- R36: only a colour packet changes the palette. -/
theorem decodeRecord_of_pal_ne {cfg : Params} {p : Record} {cv : Canvas} (h : (recordEffect cfg p cv).1.pal ≠ cv.pal) :
    ∃ rgb, decodeRecord p = .ok (.colorsLow rgb) ∨ decodeRecord p = .ok (.colorsHigh rgb) := by
  obtain ⟨i, hi, he⟩ | ⟨_, he⟩ := recordEffect_cases cfg p cv <;> rw [he] at h
  · by_contra hno
    simp only [hi, Except.ok.injEq, not_exists, not_or] at hno
    exact h (effect_pal (fun rgb => (hno rgb).1) fun rgb => (hno rgb).2)
  · exact absurd rfl h

/-- R37: only a scroll changes an offset. -/
theorem decodeRecord_of_offsets_ne {cfg : Params} {p : Record} {cv : Canvas}
    (h : (recordEffect cfg p cv).1.hOff ≠ cv.hOff ∨ (recordEffect cfg p cv).1.vOff ≠ cv.vOff) :
    ∃ color hCmd hOffNew vCmd vOffNew, decodeRecord p = .ok (.scrollPreset color hCmd hOffNew vCmd vOffNew) ∨
      decodeRecord p = .ok (.scrollCopy hCmd hOffNew vCmd vOffNew) := by
  obtain ⟨i, hi, he⟩ | ⟨_, he⟩ := recordEffect_cases cfg p cv <;> rw [he] at h
  · by_contra hno
    simp only [hi, Except.ok.injEq, not_exists, not_or] at hno
    obtain ⟨hh, hv⟩ := effect_offsets (cfg := cfg) (cv := cv)
      (fun color hCmd hOff vCmd vOff => (hno color hCmd hOff vCmd vOff).1)
      fun hCmd hOff vCmd vOff => (hno 0#4 hCmd hOff vCmd vOff).2
    exact h.elim (· hh) (· hv)
  · exact absurd h (by simp)

/-- R34: a colour packet, a DEFTRANSP and a record that is no instruction write no cell. -/
theorem decodeRecord_of_grid_ne {cfg : Params} {p : Record} {cv : Canvas}
    (h : (recordEffect cfg p cv).1.grid ≠ cv.grid) :
    ∃ i, decodeRecord p = .ok i ∧ i ≠ .defTransp ∧ (∀ rgb, i ≠ .colorsLow rgb) ∧ ∀ rgb, i ≠ .colorsHigh rgb := by
  obtain ⟨i, hi, he⟩ | ⟨_, he⟩ := recordEffect_cases cfg p cv <;> rw [he] at h
  · refine ⟨i, hi, ?_, fun rgb => ?_, fun rgb => ?_⟩ <;> rintro rfl <;> exact h rfl
  · exact absurd rfl h

/-- Settles O56: a step without a packet keeps the Canvas or makes it fresh, and a packet's Canvas is its record's
effect. -/
theorem canvasWriters : Obligations.CanvasWriters := by
  intro s t hstep
  obtain ⟨hwants, -, -, -, hcanvas, -⟩ | ⟨hwants, -, hcanvas, -⟩ | ⟨hwants, u, hu, -, -, -, hcanvas, -⟩ :=
    step_replay_cases hstep
  · exact ⟨fun _ => .inl hcanvas, fun h => absurd h (by simp [hwants])⟩
  · exact ⟨fun _ => .inr hcanvas, fun h => absurd h (by simp [hwants])⟩
  · rw [hcanvas, consume_canvas hu]
    exact ⟨fun h => absurd h (by simp [hwants]),
      fun _ => ⟨decodeRecord_of_pal_ne, decodeRecord_of_offsets_ne, decodeRecord_of_grid_ne⟩⟩

/-- R47: the loop's test after a packet keeps the frame or takes a snapshot. -/
theorem afterPacket_frame_cases (s : State) : (afterPacket s).frame = s.frame ∨
    ((afterPacket s).frame = some (snapshot (afterPacket s).cfg (afterPacket s).canvas) ∧
      (afterPacket s).phase = .frameLoop ∧ (afterPacket s).changed = false) := by
  obtain ⟨-, -, h⟩ | ⟨-, -, h⟩ | ⟨h, -⟩ := afterPacket_cases s <;> rw [h]
  · exact .inr ⟨rfl, rfl, rfl⟩
  · exact .inl rfl
  · exact .inl rfl

/-- R47: a transaction that begins keeps the frame, takes a snapshot (MOVE) or clears it (LOAD, UNLOAD). -/
theorem begin_frame_cases (tr : Transaction) (s : State) : (begin tr s).frame = s.frame ∨
    ((begin tr s).frame = some (snapshot (begin tr s).cfg (begin tr s).canvas) ∧ (begin tr s).phase = .frameLoop ∧
      (begin tr s).changed = false) ∨
    ((begin tr s).frame = none ∧ ((∃ bytes, tr = .load bytes) ∨ tr = .unload)) := by
  obtain ⟨bytes, htr, h⟩ | ⟨htr, h⟩ | ⟨-, -, -, h⟩ | ⟨-, -, -, h⟩ | ⟨_, -, -, -, -, h⟩ | ⟨_, -, -, -, -, h⟩ |
    ⟨_, h⟩ := begin_cases tr s <;> rw [h]
  · exact .inr (.inr ⟨rfl, .inl ⟨bytes, htr⟩⟩)
  · exact .inr (.inr ⟨rfl, .inr htr⟩)
  · exact .inl rfl
  · exact .inr (.inl ⟨rfl, rfl, rfl⟩)
  · exact .inl rfl
  · exact .inl rfl
  · exact .inl rfl

/-- Settles O58, by the cases of a step. -/
theorem frameChangesOnlyBySnapshot : Obligations.FrameChangesOnlyBySnapshot := by
  intro s t hstep
  obtain ⟨-, -, rfl⟩ | ⟨tr, rest, hp, hpending, rfl⟩ | ⟨-, -, rfl⟩ | ⟨-, -, rfl⟩ | ⟨_, -, -, rfl⟩ |
    ⟨u, -, hu, rfl⟩ := step_cases hstep
  · exact .inl rfl
  · obtain hkept | hsnapshot | ⟨hnone, htr⟩ := begin_frame_cases tr (s.setPending rest)
    · exact .inl hkept
    · exact .inr (.inl hsnapshot)
    · exact .inr (.inr ⟨hnone, hp, tr, rest, hpending, htr⟩)
  · exact .inr (.inl ⟨rfl, rfl, rfl⟩)
  · exact .inl rfl
  · exact .inl rfl
  · obtain ⟨-, -, _, -, -, -, -, -, hframe, -⟩ := consume_facts hu
    rw [← hframe]
    exact (afterPacket_frame_cases u).imp_right .inl

/-- R49, R233: one piece of a transaction keeps the parameters and gives at most one response. -/
def AtMostOneReply (s t : State) : Prop :=
  t.cfg = s.cfg ∧ (t.replies = s.replies ∨ ∃ r, t.replies = s.replies ++ [r])

theorem atMostOneReply_begin (tr : Transaction) (s : State) : AtMostOneReply s (begin tr s) := by
  obtain ⟨_, -, h⟩ | ⟨-, h⟩ | ⟨-, -, -, h⟩ | ⟨-, -, -, h⟩ | ⟨_, -, -, -, -, h⟩ | ⟨_, -, -, -, -, h⟩ |
    ⟨_, h⟩ := begin_cases tr s <;> rw [h]
  · exact ⟨rfl, .inr ⟨_, rfl⟩⟩
  · exact ⟨rfl, .inr ⟨_, rfl⟩⟩
  · exact ⟨rfl, .inl rfl⟩
  · exact ⟨rfl, .inl rfl⟩
  · exact ⟨rfl, .inl rfl⟩
  · exact ⟨rfl, .inl rfl⟩
  · exact ⟨rfl, .inr ⟨_, rfl⟩⟩

theorem atMostOneReply_afterPacket (s : State) : AtMostOneReply s (afterPacket s) := by
  obtain ⟨-, -, h⟩ | ⟨-, -, h⟩ | ⟨h, -⟩ := afterPacket_cases s <;> rw [h]
  · exact ⟨rfl, .inl rfl⟩
  · exact ⟨rfl, .inr ⟨_, rfl⟩⟩
  · exact ⟨rfl, .inl rfl⟩

/-- Settles O59, by the cases of a step. -/
theorem parametersFixedRepliesGrow : Obligations.ParametersFixedRepliesGrow := by
  intro s t hstep
  obtain ⟨-, -, rfl⟩ | ⟨tr, rest, -, -, rfl⟩ | ⟨-, -, rfl⟩ | ⟨-, -, rfl⟩ | ⟨_, -, -, rfl⟩ |
    ⟨u, -, hu, rfl⟩ := step_cases hstep
  · exact ⟨rfl, .inl rfl⟩
  · exact atMostOneReply_begin tr (s.setPending rest)
  · exact ⟨rfl, .inl rfl⟩
  · exact ⟨rfl, .inr ⟨_, rfl⟩⟩
  · exact ⟨rfl, .inr ⟨_, rfl⟩⟩
  · obtain ⟨-, -, _, -, -, hcfg, -, -, -, -, -, hreplies⟩ := consume_facts hu
    rw [← hcfg, ← hreplies]
    exact atMostOneReply_afterPacket u

end Sys2Proof.Machine

/-! What an instruction's effect on the Canvas says of its execution (R110, R112, R113). -/

namespace Sys2Proof.Machine

/-- R112, R113: an instruction that is not refused leaves the Canvas of its rule, with `last` updated, and the books
kept with its change bit. -/
theorem exec_of_effect {i : Instr} {s : State} {cv : Canvas} {ch : Bool} (hr : refuses s.cfg i = false)
    (he : effect s.cfg i s.canvas = (cv, ch)) :
    exec i s = .next ((s.setCanvas { cv with last := updateLast i }).advance ch) := by
  rw [exec_next hr, he]

theorem withLast_self {cv : Canvas} {l : LastCommand} (h : cv.last = l) : { cv with last := l } = cv := by
  subst h
  rfl

/-- Settles O19: `last` is what the effect's update says, and the rest is the bookkeeping. -/
theorem everyInstructionUpdatesLast : Obligations.EveryInstructionUpdatesLast := by
  intro i s t h
  obtain ⟨-, rfl⟩ := exec_eq_next.mp h
  refine ⟨?_, _, consumed_advance _ _ _⟩
  cases i <;> rfl

/-! ## Presets (R130, R132) -/

/-- Settles O20, by the filling case of MEMPRESET. -/
theorem memPresetFillsCanvas : Obligations.MemPresetFillsCanvas := by
  intro color rep s h
  exact ⟨_, exec_of_effect rfl (memoryPreset_fill h), cell_fill color, rfl, rfl, rfl, rfl, consumed_advance _ _ _⟩

/-- Settles O21, by the repeat case of MEMPRESET: `last` is already the colour. -/
theorem memPresetRepeatIsDeduplicated : Obligations.MemPresetRepeatIsDeduplicated := by
  intro color rep s hrep hlast
  exact ⟨_, exec_of_effect rfl (memoryPreset_repeat hrep hlast), withLast_self hlast, consumed_advance _ _ _⟩

/-- Settles O23: after the first MEMPRESET `last` is its colour, which makes the second a repeat of the same colour and
no repeat of another. -/
theorem dedupLaw : Obligations.DedupLaw := by
  have hlastOf {color rep : BitVec 4} {s t : State} (h : exec (.memPreset color rep) s = .next t) :
      t.canvas.last = .memoryPreset color := (everyInstructionUpdatesLast _ s t h).1
  refine ⟨fun color rep1 rep2 s t h hrep => memPresetRepeatIsDeduplicated color rep2 t hrep (hlastOf h),
    fun color1 color2 rep1 rep2 s t hnone hne h => ?_⟩
  obtain ⟨t', ht', -, -, -, -, -, hfirst⟩ := memPresetFillsCanvas color1 rep1 s (.inr (by simp [hnone]))
  obtain ⟨u, hu, -, -, -, -, -, hsecond⟩ := memPresetFillsCanvas color2 rep2 t (.inr (by simp [hlastOf h, hne]))
  cases ht'.symm.trans h
  exact ⟨hfirst, u, hu, hsecond⟩

/-! ## Tiles (R150 to R152) -/

theorem not_inTile {row : BitVec 5} {col : BitVec 6} {r c : Nat}
    (h : r < row.toNat * 12 ∨ row.toNat * 12 + 12 ≤ r ∨ c < col.toNat * 6 ∨ col.toNat * 6 + 6 ≤ c) :
    ¬ inTile row col r c := by
  simp only [inTile, tileY0, tileX0, Config.tileH, Config.tileW]
  omega

theorem tileInside_eq_false {row : BitVec 5} {col : BitVec 6} (h : 18 ≤ row.toNat ∨ 50 ≤ col.toNat) :
    tileInside row col = false := by
  simp only [tileInside, Bool.and_eq_false_iff, decide_eq_false_iff_not, Config.tileRows, Config.tileCols]
  omega

theorem refuses_of_inside {cfg : Params} {color0 color1 : BitVec 4} {row : BitVec 5} {col : BitVec 6}
    {bits : Vector (BitVec 6) 12} (h : tileInside row col = true) :
    refuses cfg (.tile color0 color1 row col bits) = false ∧
      refuses cfg (.tileXor color0 color1 row col bits) = false := by
  simp [refuses, h]

/-- Settles O24, by the cells of a painted tile. -/
theorem tileWritesItsCells : Obligations.TileWritesItsCells := by
  intro color0 color1 row col bits s hrow hcol
  have hin := tileInside_of_lt hrow hcol
  have he : effect s.cfg (.tile color0 color1 row col bits) s.canvas = tileBlock color0 color1 row col bits s.canvas :=
    if_pos hin
  have hinside := cell_paintTile_inside (fun _ v => v) color0 color1 row col bits s.canvas.grid
  have houtside := cell_paintTile_outside (fun _ v => v) color0 color1 row col bits s.canvas.grid
  exact ⟨_, exec_of_effect (refuses_of_inside hin).1 he, consumed_advance _ _ _, hinside,
    fun r c h => houtside r c (not_inTile h), rfl, rfl, rfl, rfl⟩

/-- Settles O25, by the cells of a painted tile. -/
theorem tileXorWritesItsCells : Obligations.TileXorWritesItsCells := by
  intro color0 color1 row col bits s hrow hcol
  have hin := tileInside_of_lt hrow hcol
  have he : effect s.cfg (.tileXor color0 color1 row col bits) s.canvas =
      tileBlockXor color0 color1 row col bits s.canvas := if_pos hin
  have hinside := cell_paintTile_inside (fun old v => old ^^^ v) color0 color1 row col bits s.canvas.grid
  have houtside := cell_paintTile_outside (fun old v => old ^^^ v) color0 color1 row col bits s.canvas.grid
  exact ⟨_, exec_of_effect (refuses_of_inside hin).2 he, consumed_advance _ _ _, hinside,
    fun r c h => houtside r c (not_inTile h), rfl, rfl, rfl, rfl⟩

/-- Settles O26: outside the canvas the effect of a tile is empty, and only the policy `refuse` refuses it. -/
theorem tileOutsideCanvas : Obligations.TileOutsideCanvas := by
  intro color0 color1 row col bits s hout
  have hin := tileInside_eq_false hout
  have he : effect s.cfg (.tile color0 color1 row col bits) s.canvas = (s.canvas, false) := by simp [effect, hin]
  have heXor : effect s.cfg (.tileXor color0 color1 row col bits) s.canvas = (s.canvas, false) := by simp [effect, hin]
  refine ⟨fun hskip => ?_, fun hrefuse => ?_⟩
  · exact ⟨⟨_, exec_of_effect (refuses_skip hskip _) he, rfl, consumed_advance _ _ _⟩,
      _, exec_of_effect (refuses_skip hskip _) heXor, rfl, consumed_advance _ _ _⟩
  · simp [exec_eq, refuses, hin, hrefuse]

/-- R152: the same colours XORed into a tile twice give every cell back. -/
theorem paintTile_xor_twice (color0 color1 : BitVec 4) (row : BitVec 5) (col : BitVec 6) (bits : Vector (BitVec 6) 12)
    (g : Grid) :
    paintTile (· ^^^ ·) color0 color1 row col bits (paintTile (· ^^^ ·) color0 color1 row col bits g) = g := by
  apply grid_ext
  intro r c
  by_cases h : inTile row col r.val c.val
  · simp only [paintTile, cell_tabulate, dif_pos h, BitVec.xor_assoc, BitVec.xor_self, BitVec.xor_zero]
  · rw [cell_paintTile_outside _ _ _ _ _ _ _ r c h, cell_paintTile_outside _ _ _ _ _ _ _ r c h]

/-- Settles O27: inside the canvas by XOR's own inverse, outside since nothing is written. -/
theorem tileXorIsSelfInverse : Obligations.TileXorIsSelfInverse := by
  intro color0 color1 row col bits s t h
  obtain ⟨hr, rfl⟩ := exec_eq_next.mp h
  cases hin : tileInside row col with
  | true =>
    have he (cv : Canvas) : effect s.cfg (.tileXor color0 color1 row col bits) cv =
        tileBlockXor color0 color1 row col bits cv := if_pos hin
    have htwice := paintTile_xor_twice color0 color1 row col bits s.canvas.grid
    rw [he]
    exact ⟨_, exec_of_effect hr (he _), ⟨fun r c => congrArg (Grid.cell · r c) htwice, rfl, rfl, rfl⟩,
      fun _ _ => ⟨consumed_advance _ _ _, consumed_advance _ _ _⟩⟩
  | false =>
    have he (cv : Canvas) : effect s.cfg (.tileXor color0 color1 row col bits) cv = (cv, false) := by
      simp [effect, hin]
    rw [he]
    refine ⟨_, exec_of_effect hr (he _), ⟨fun _ _ => rfl, rfl, rfl, rfl⟩, fun hrow hcol => ?_⟩
    rw [tileInside_of_lt hrow hcol] at hin
    cases hin

/-! ## Colours (R190 to R193) -/

/-- R191, R192: an entry of the load is its operand, scaled. -/
theorem loadColours_entry (base : Nat) (hbase : base + 8 ≤ 16) (rgb : Vector Rgb12 8) (cv : Canvas) (k : Fin 8) :
    (loadColours base hbase rgb cv).1.pal[base + k.val] = unpack rgb[k.val] := by
  simp [loadColours]

/-- R191, R192: an entry outside the load is kept. -/
theorem loadColours_other (base : Nat) (hbase : base + 8 ≤ 16) (rgb : Vector Rgb12 8) (cv : Canvas) (i : Nat)
    (h : i < 16) (hout : i < base ∨ base + 8 ≤ i) : (loadColours base hbase rgb cv).1.pal[i] = cv.pal[i] := by
  have hno : ¬ (base ≤ i ∧ i < base + 8) := by omega
  simp [loadColours, hno]

/-- R191, R192: the change bit says whether an entry of the load is new. -/
theorem loadColours_changed (base : Nat) (hbase : base + 8 ≤ 16) (rgb : Vector Rgb12 8) (cv : Canvas) :
    (loadColours base hbase rgb cv).2 = true ↔
      ∃ k : Fin 8, (loadColours base hbase rgb cv).1.pal[base + k.val] ≠ cv.pal[base + k.val] := by
  simp only [loadColours_entry]
  simp [loadColours, entriesDiffer]

theorem unpack_toNat (c : Rgb12) :
    (unpack c).r.toNat = 17 * c.r.toNat ∧ (unpack c).g.toNat = 17 * c.g.toNat ∧ (unpack c).b.toNat = 17 * c.b.toNat :=
  ⟨scaleChannel_toNat _, scaleChannel_toNat _, scaleChannel_toNat _⟩

/-- Settles O33, by the entries of a load from entry 0 on. -/
theorem colorsLowSetsEntries : Obligations.ColorsLowSetsEntries := by
  intro rgb s
  have hentry := loadColours_entry 0 (by decide) rgb s.canvas
  have hchanged := loadColours_changed 0 (by decide) rgb s.canvas
  simp only [Nat.zero_add] at hentry hchanged
  refine ⟨_, _, exec_next rfl, consumed_advance _ _ _, fun k => ?_, fun i h h8 => ?_, hchanged, rfl, rfl, rfl⟩
  · simpa only [effect, advance_canvas, setCanvas_canvas, hentry, Fin.getElem_fin] using unpack_toNat rgb[k.val]
  · exact loadColours_other 0 (by decide) rgb s.canvas i h (.inr h8)

/-- Settles O34, by the entries of a load from entry 8 on. -/
theorem colorsHighSetsEntries : Obligations.ColorsHighSetsEntries := by
  intro rgb s
  refine ⟨_, _, exec_next rfl, consumed_advance _ _ _, fun k => ?_, fun i h => ?_,
    loadColours_changed 8 (by decide) rgb s.canvas, rfl, rfl, rfl⟩
  · simpa only [effect, advance_canvas, setCanvas_canvas, loadColours_entry, Fin.getElem_fin] using
      unpack_toNat rgb[k.val]
  · exact loadColours_other 8 (by decide) rgb s.canvas i (by omega) (.inl h)

/-- Settles O35: DEFTRANSP has the empty effect. -/
theorem defTranspIsNop : Obligations.DefTranspIsNop :=
  fun _ => ⟨_, exec_of_effect rfl rfl, rfl, consumed_advance _ _ _⟩

end Sys2Proof.Machine

/-! Scrolls (R170 to R175): both shifts through the signed distance of their direction code, which is 0 where they do
not shift. -/

namespace Sys2Proof.Machine

/-- R91, R170: how far away the source of a direction code is; 0 for the codes that do not shift. -/
def shiftDistance (cmd : BitVec 2) (unit : Int) : Int := (shiftDelta cmd unit).getD 0

theorem shiftDistance_eq (cmd : BitVec 2) (unit : Int) :
    shiftDistance cmd unit = if cmd = 1#2 then -unit else if cmd = 2#2 then unit else 0 := by
  obtain ⟨rfl, h⟩ | ⟨rfl, h⟩ | ⟨rfl, h⟩ | ⟨rfl, h⟩ := shiftDelta_cases cmd unit <;> rw [shiftDistance, h] <;> rfl

theorem shiftDistance_one (unit : Int) : shiftDistance 1#2 unit = -unit := rfl

theorem shiftDistance_two (unit : Int) : shiftDistance 2#2 unit = unit := rfl

section

variable {cmd : BitVec 2} {fill : Fill} {g : Grid}

/-! ## One shift, cell by cell -/

theorem cell_hShift_of_source {r : Fin 216} {c c' : Fin 300} (h : (c'.val : Int) = c.val + shiftDistance cmd 6) :
    (hShift cmd fill g).cell r c = g.cell r c' := by
  cases hd : shiftDelta cmd 6 with
  | none =>
    have hc : c' = c := by simp only [shiftDistance, hd, Option.getD_none] at h; omega
    rw [hShift_none hd, hc]
  | some d => exact cell_hShift_moved hd r c c' (by simpa [shiftDistance, hd] using h)

theorem cell_hShift_vacated {color : Cell} {r : Fin 216} {c : Fin 300}
    (h : (c.val : Int) + shiftDistance cmd 6 < 0 ∨ 300 ≤ (c.val : Int) + shiftDistance cmd 6) :
    (hShift cmd (.flat color) g).cell r c = color := by
  cases hd : shiftDelta cmd 6 with
  | none => simp only [shiftDistance, hd, Option.getD_none] at h; omega
  | some d => exact cell_hShift_flat hd r c (by simpa [shiftDistance, hd] using h)

theorem cell_hShift_wrapped {r : Fin 216} {c c' : Fin 300}
    (h : (c'.val : Int) = (c.val + shiftDistance cmd 6) % 300) : (hShift cmd .wrap g).cell r c = g.cell r c' := by
  cases hd : shiftDelta cmd 6 with
  | none =>
    have hc : c' = c := by simp only [shiftDistance, hd, Option.getD_none] at h; omega
    rw [hShift_none hd, hc]
  | some d =>
    have hc : modIndex 300 (by decide) (c.val + d) = c' := by
      have := modIndex_val 300 (by decide) (c.val + d)
      simp only [shiftDistance, hd, Option.getD_some] at h
      omega
    rw [cell_hShift_wrap hd, hc]

theorem cell_vShift_of_source {r r' : Fin 216} {c : Fin 300} (h : (r'.val : Int) = r.val + shiftDistance cmd 12) :
    (vShift cmd fill g).cell r c = g.cell r' c := by
  cases hd : shiftDelta cmd 12 with
  | none =>
    have hr : r' = r := by simp only [shiftDistance, hd, Option.getD_none] at h; omega
    rw [vShift_none hd, hr]
  | some d => exact cell_vShift_moved hd r r' c (by simpa [shiftDistance, hd] using h)

theorem cell_vShift_vacated {color : Cell} {r : Fin 216} {c : Fin 300}
    (h : (r.val : Int) + shiftDistance cmd 12 < 0 ∨ 216 ≤ (r.val : Int) + shiftDistance cmd 12) :
    (vShift cmd (.flat color) g).cell r c = color := by
  cases hd : shiftDelta cmd 12 with
  | none => simp only [shiftDistance, hd, Option.getD_none] at h; omega
  | some d => exact cell_vShift_flat hd r c (by simpa [shiftDistance, hd] using h)

theorem cell_vShift_wrapped {r r' : Fin 216} {c : Fin 300}
    (h : (r'.val : Int) = (r.val + shiftDistance cmd 12) % 216) : (vShift cmd .wrap g).cell r c = g.cell r' c := by
  cases hd : shiftDelta cmd 12 with
  | none =>
    have hr : r' = r := by simp only [shiftDistance, hd, Option.getD_none] at h; omega
    rw [vShift_none hd, hr]
  | some d =>
    have hr : modIndex 216 (by decide) (r.val + d) = r' := by
      have := modIndex_val 216 (by decide) (r.val + d)
      simp only [shiftDistance, hd, Option.getD_some] at h
      omega
    rw [cell_vShift_wrap hd, hr]

end

/-- The row at a signed position, where it is on the canvas. -/
theorem exists_row {x : Int} (h : 0 ≤ x ∧ x < 216) : ∃ r : Fin 216, (r.val : Int) = x :=
  ⟨⟨x.toNat, by omega⟩, by simp [h.1]⟩

/-- The column at a signed position, where it is on the canvas. -/
theorem exists_col {x : Int} (h : 0 ≤ x ∧ x < 300) : ∃ c : Fin 300, (c.val : Int) = x :=
  ⟨⟨x.toNat, by omega⟩, by simp [h.1]⟩

/-! ## Both shifts -/

/-- R170: a cell whose row or whose column comes from outside the canvas takes the colour. -/
theorem cell_shifts_vacated {hCmd vCmd : BitVec 2} {color : Cell} {g : Grid} {r : Fin 216} {c : Fin 300}
    (h : (r.val : Int) + shiftDistance vCmd 12 < 0 ∨ 216 ≤ (r.val : Int) + shiftDistance vCmd 12 ∨
      (c.val : Int) + shiftDistance hCmd 6 < 0 ∨ 300 ≤ (c.val : Int) + shiftDistance hCmd 6) :
    (vShift vCmd (.flat color) (hShift hCmd (.flat color) g)).cell r c = color := by
  by_cases hrow : 0 ≤ (r.val : Int) + shiftDistance vCmd 12 ∧ (r.val : Int) + shiftDistance vCmd 12 < 216
  · obtain ⟨r', hr'⟩ := exists_row hrow
    rw [cell_vShift_of_source hr', cell_hShift_vacated (by omega)]
  · exact cell_vShift_vacated (by omega)

/-- Settles O28: the two shifts cell by cell, the columns first. -/
theorem scrollPresetMovesCells : Obligations.ScrollPresetMovesCells := by
  intro color hCmd hOffNew vCmd vOffNew s dh dv hdh hdv
  obtain rfl : shiftDistance hCmd 6 = dh := (shiftDistance_eq hCmd 6).trans hdh.symm
  obtain rfl : shiftDistance vCmd 12 = dv := (shiftDistance_eq vCmd 12).trans hdv.symm
  have hvacated (r : Fin 216) (c : Fin 300) := cell_shifts_vacated (hCmd := hCmd) (vCmd := vCmd) (color := color)
    (g := s.canvas.grid) (r := r) (c := c)
  refine ⟨_, exec_of_effect rfl rfl, consumed_advance _ _ _, fun r r' c c' hr hc => ?_, hvacated, rfl, rfl⟩
  change (vShift vCmd (.flat color) (hShift hCmd (.flat color) s.canvas.grid)).cell r c = _
  rw [cell_vShift_of_source hr, cell_hShift_of_source hc]

/-- Settles O29: the two shifts cell by cell, the columns first, both modulo the canvas. -/
theorem scrollCopyRotatesCells : Obligations.ScrollCopyRotatesCells := by
  intro hCmd hOffNew vCmd vOffNew s dh dv hdh hdv
  obtain rfl : shiftDistance hCmd 6 = dh := (shiftDistance_eq hCmd 6).trans hdh.symm
  obtain rfl : shiftDistance vCmd 12 = dv := (shiftDistance_eq vCmd 12).trans hdv.symm
  refine ⟨_, exec_of_effect rfl rfl, consumed_advance _ _ _, fun r r' c c' hr hc => ?_, rfl, rfl⟩
  exact (cell_vShift_wrapped hr).trans (cell_hShift_wrapped hc)

/-- R172: the value of a new offset, by the field and the policy. -/
theorem newOffset_val (policy : ScrollOobPolicy) (max field : Nat) (old : Fin (max + 1)) :
    (newOffset policy max field old).val =
      if field ≤ max then field else if policy = .keep then old.val else max := by
  unfold newOffset
  by_cases h : field ≤ max
  · rw [dif_pos h, if_pos h]
  · rw [dif_neg h, if_neg h]
    cases policy <;> rfl

/-- Settles O30: both scrolls set both offsets alike. -/
theorem scrollSetsOffsets : Obligations.ScrollSetsOffsets := by
  intro color hCmd hOffNew vCmd vOffNew s t h
  have hoffsets : t.canvas.hOff = newOffset s.cfg.scrollOob 5 hOffNew.toNat s.canvas.hOff ∧
      t.canvas.vOff = newOffset s.cfg.scrollOob 11 vOffNew.toNat s.canvas.vOff := by
    obtain h | h := h
    all_goals
      obtain ⟨-, rfl⟩ := exec_eq_next.mp h
      exact ⟨rfl, rfl⟩
  rw [hoffsets.1, hoffsets.2]
  exact ⟨newOffset_val _ 5 _ _, newOffset_val _ 11 _ _⟩

/-- Settles O31, cell by cell: where both sources are on the canvas both orders read the same cell, and elsewhere both
give the fill. -/
theorem shiftsCommute : Obligations.ShiftsCommute := by
  intro hCmd vCmd fill g
  apply grid_ext
  intro r c
  cases fill with
  | wrap =>
    obtain ⟨r', hr⟩ := exists_row (x := (r.val + shiftDistance vCmd 12) % 216) (by omega)
    obtain ⟨c', hc⟩ := exists_col (x := (c.val + shiftDistance hCmd 6) % 300) (by omega)
    rw [cell_vShift_wrapped hr, cell_hShift_wrapped hc, cell_hShift_wrapped hc, cell_vShift_wrapped hr]
  | flat color =>
    by_cases hcol : 0 ≤ (c.val : Int) + shiftDistance hCmd 6 ∧ (c.val : Int) + shiftDistance hCmd 6 < 300
    · obtain ⟨c', hc⟩ := exists_col hcol
      rw [cell_hShift_of_source hc]
      by_cases hrow : 0 ≤ (r.val : Int) + shiftDistance vCmd 12 ∧ (r.val : Int) + shiftDistance vCmd 12 < 216
      · obtain ⟨r', hr⟩ := exists_row hrow
        rw [cell_vShift_of_source hr, cell_hShift_of_source hc, cell_vShift_of_source hr]
      · rw [cell_vShift_vacated (by omega), cell_vShift_vacated (by omega)]
    · rw [cell_shifts_vacated (by omega), cell_hShift_vacated (by omega)]

/-! ## Turning back (R175) -/

theorem cell_hShift_iterate (cmd : BitVec 2) (n : Nat) (g : Grid) (r : Fin 216) (c c' : Fin 300)
    (h : (c'.val : Int) = (c.val + n * shiftDistance cmd 6) % 300) :
    ((hShift cmd .wrap)^[n] g).cell r c = g.cell r c' := by
  induction n generalizing g c' with
  | zero =>
    have hc : c' = c := by simp at h; omega
    rw [hc, Function.iterate_zero_apply]
  | succ n ih =>
    obtain ⟨c'', hc''⟩ := exists_col (x := (c.val + n * shiftDistance cmd 6) % 300) (by omega)
    rw [Function.iterate_succ_apply, ih _ c'' hc'', cell_hShift_wrapped]
    rw [h, hc'', Int.emod_add_emod, Nat.cast_succ, Int.add_mul, Int.one_mul, Int.add_assoc]

theorem cell_vShift_iterate (cmd : BitVec 2) (n : Nat) (g : Grid) (r r' : Fin 216) (c : Fin 300)
    (h : (r'.val : Int) = (r.val + n * shiftDistance cmd 12) % 216) :
    ((vShift cmd .wrap)^[n] g).cell r c = g.cell r' c := by
  induction n generalizing g r' with
  | zero =>
    have hr : r' = r := by simp at h; omega
    rw [hr, Function.iterate_zero_apply]
  | succ n ih =>
    obtain ⟨r'', hr''⟩ := exists_row (x := (r.val + n * shiftDistance cmd 12) % 216) (by omega)
    rw [Function.iterate_succ_apply, ih _ r'' hr'', cell_vShift_wrapped]
    rw [h, hr'', Int.emod_add_emod, Nat.cast_succ, Int.add_mul, Int.one_mul, Int.add_assoc]

theorem hShift_turns_back (g : Grid) : hShift 2#2 .wrap (hShift 1#2 .wrap g) = g := by
  apply grid_ext
  intro r c
  obtain ⟨c', hc⟩ := exists_col (x := (c.val + shiftDistance 2#2 6) % 300) (by omega)
  rw [cell_hShift_wrapped hc, cell_hShift_wrapped]
  simp only [shiftDistance_one, shiftDistance_two] at hc ⊢
  omega

theorem vShift_turns_back (g : Grid) : vShift 2#2 .wrap (vShift 1#2 .wrap g) = g := by
  apply grid_ext
  intro r c
  obtain ⟨r', hr⟩ := exists_row (x := (r.val + shiftDistance 2#2 12) % 216) (by omega)
  rw [cell_vShift_wrapped hr, cell_vShift_wrapped]
  simp only [shiftDistance_one, shiftDistance_two] at hr ⊢
  omega

theorem exec_scrollCopy_grid {hCmd vCmd : BitVec 2} {h : BitVec 3} {v : BitVec 4} {s t : State}
    (hexec : exec (.scrollCopy hCmd h vCmd v) s = .next t) :
    t.canvas.grid = vShift vCmd .wrap (hShift hCmd .wrap s.canvas.grid) := by
  obtain ⟨-, rfl⟩ := exec_eq_next.mp hexec
  rfl

/-- Settles O32: there and back are inverse shifts, and a full turn moves each cell by a whole canvas. -/
theorem scrollCopyTurnsBack : Obligations.ScrollCopyTurnsBack := by
  refine ⟨fun h h' v v' s t u ht hu => ?_, fun h h' v v' s t u ht hu => ?_, fun g => ⟨?_, ?_⟩⟩
  · rw [exec_scrollCopy_grid hu, exec_scrollCopy_grid ht, vShift_none rfl, vShift_none rfl, hShift_turns_back]
  · rw [exec_scrollCopy_grid hu, exec_scrollCopy_grid ht, hShift_none rfl, hShift_none rfl, vShift_turns_back]
  · refine grid_ext fun r c => cell_hShift_iterate 1#2 50 g r c c ?_
    simp only [shiftDistance_one]
    omega
  · refine grid_ext fun r c => cell_vShift_iterate 1#2 18 g r r c ?_
    simp only [shiftDistance_one]
    omega

end Sys2Proof.Machine

/-! What a record of each code decodes to (R95), and where a record is an instruction at all. -/

namespace Sys2Proof

section

variable {p : Record} (hcmd : cmdField p = Config.cdgCommand)

include hcmd

theorem decodeRecord_eq_memPreset (hinstr : (instrField p).toNat = 1) :
    decodeRecord p = .ok (.memPreset (nibbleField p 0) (nibbleField p 1)) := by
  simp [decodeRecord, hcmd, hinstr]

theorem decodeRecord_eq_tile (hinstr : (instrField p).toNat = 6) : decodeRecord p =
    .ok (.tile (nibbleField p 0) (nibbleField p 1) (rowField p) (colField p) (tileRows p)) := by
  simp [decodeRecord, hcmd, hinstr]

theorem decodeRecord_eq_scrollPreset (hinstr : (instrField p).toNat = 20) : decodeRecord p =
    .ok (.scrollPreset (nibbleField p 0) (scrollCmdField p 1) (hOffField p) (scrollCmdField p 2) (vOffField p)) := by
  simp [decodeRecord, hcmd, hinstr]

theorem decodeRecord_eq_scrollCopy (hinstr : (instrField p).toNat = 24) : decodeRecord p =
    .ok (.scrollCopy (scrollCmdField p 1) (hOffField p) (scrollCmdField p 2) (vOffField p)) := by
  simp [decodeRecord, hcmd, hinstr]

theorem decodeRecord_eq_colorsLow (hinstr : (instrField p).toNat = 30) :
    decodeRecord p = .ok (.colorsLow (rgbFields p)) := by
  simp [decodeRecord, hcmd, hinstr]

theorem decodeRecord_eq_colorsHigh (hinstr : (instrField p).toNat = 31) :
    decodeRecord p = .ok (.colorsHigh (rgbFields p)) := by
  simp [decodeRecord, hcmd, hinstr]

theorem decodeRecord_eq_tileXor (hinstr : (instrField p).toNat = 38) : decodeRecord p =
    .ok (.tileXor (nibbleField p 0) (nibbleField p 1) (rowField p) (colField p) (tileRows p)) := by
  simp [decodeRecord, hcmd, hinstr]

end

/-- R95: the code of an instruction is one of the nine. -/
theorem code_mem (i : Instr) : i.code ∈ [1#6, 2#6, 6#6, 20#6, 24#6, 28#6, 30#6, 31#6, 38#6] := by
  cases i <;> simp [Instr.code]

/-- R95: a record is an instruction exactly where its command is 9 and its code one of the nine. -/
theorem decodeRecord_isOk_iff (p : Record) : (∃ i, decodeRecord p = .ok i) ↔ cmdField p = Config.cdgCommand ∧
    instrField p ∈ [1#6, 2#6, 6#6, 20#6, 24#6, 28#6, 30#6, 31#6, 38#6] := by
  constructor
  · rintro ⟨i, hi⟩
    obtain ⟨hcmd, hinstr⟩ := decodeRecord_ok hi
    exact ⟨hcmd, hinstr ▸ code_mem i⟩
  · rintro ⟨hcmd, hmem⟩
    simp only [List.mem_cons, List.not_mem_nil, or_false] at hmem
    obtain h | h | h | h | h | h | h | h | h := hmem <;> simp [decodeRecord, hcmd, h]

/-- R97: a CDG packet of another code is unused. -/
theorem decodeRecord_of_unused {p : Record} (hcmd : cmdField p = Config.cdgCommand)
    (hcode : instrField p ∉ [1#6, 2#6, 6#6, 20#6, 24#6, 28#6, 30#6, 31#6, 38#6]) :
    decodeRecord p = .error (.unusedCode (instrField p)) := by
  obtain ⟨hne, -⟩ | ⟨-, hok | hunused⟩ := decodeRecord_cases p
  · exact absurd hcmd hne
  · exact absurd ((decodeRecord_isOk_iff p).mp hok).2 hcode
  · exact hunused

/-! ## The header word (R85) -/

/-- R81, R82: under its mask a header byte is its field. -/
theorem mask_eq_setWidth_six (b : Byte) : b &&& 0x3F#8 = (b.setWidth 6).setWidth 8 := by
  revert b
  decide

/-- R85: under mask 0x3F3F the header word is the two header fields. -/
theorem headerWord_masked (p : Record) :
    headerWord p &&& 0x3F3F#16 = (cmdField p).setWidth 8 ++ (instrField p).setWidth 8 := by
  have hmask : (0x3F3F#16) = 0x3F#8 ++ 0x3F#8 := by decide
  rw [headerWord, hmask, BitVec.and_append, mask_eq_setWidth_six, mask_eq_setWidth_six]
  rfl

/-- The pattern of a row of the opcode table. -/
theorem headerPattern_eq (code : BitVec 6) :
    (0x09#6).setWidth 8 ++ code.setWidth 8 = 0x0900#16 + code.setWidth 16 := by
  revert code
  decide

theorem headerFields_inj {cmd cmd' code code' : BitVec 6}
    (h : cmd.setWidth 8 ++ code.setWidth 8 = cmd'.setWidth 8 ++ code'.setWidth 8) : cmd = cmd' ∧ code = code' := by
  have hhigh := congrArg (BitVec.extractLsb' 8 8) h
  have hlow := congrArg (BitVec.extractLsb' 0 8) h
  simp only [BitVec.extractLsb'_append_eq_left, BitVec.extractLsb'_append_eq_right] at hhigh hlow
  exact ⟨by simpa using congrArg (BitVec.setWidth 6) hhigh, by simpa using congrArg (BitVec.setWidth 6) hlow⟩

/-- Settles O12: under the mask the header word is the two fields, which say where a record is an instruction. -/
theorem opcodeMapIsExact : Obligations.OpcodeMapIsExact := by
  have hpatterns : [0x0901#16, 0x0902#16, 0x0906#16, 0x0914#16, 0x0918#16, 0x091C#16, 0x091E#16, 0x091F#16, 0x0926#16] =
      [1#6, 2#6, 6#6, 20#6, 24#6, 28#6, 30#6, 31#6, 38#6].map fun code => (0x09#6).setWidth 8 ++ code.setWidth 8 := by
    decide
  refine ⟨fun p i hi => ?_, fun p => ?_⟩
  · obtain ⟨hcmd, hinstr⟩ := decodeRecord_ok hi
    rw [headerWord_masked, hcmd, hinstr]
    exact headerPattern_eq i.code
  · rw [decodeRecord_isOk_iff, headerWord_masked, hpatterns, List.mem_map]
    constructor
    · rintro ⟨hcmd, hmem⟩
      exact ⟨instrField p, hmem, by rw [hcmd]⟩
    · rintro ⟨code, hmem, heq⟩
      obtain ⟨hcmd, hinstr⟩ := headerFields_inj heq
      exact ⟨hcmd.symm, hinstr ▸ hmem⟩

/-! ## The bits that are read (R86 to R93) -/

/-- A record with bits 7:6 of every byte cleared. -/
def Record.sixBits (p : Record) : Record := p.map (· &&& 0x3F#8)

section

variable (p : Record)

theorem cmdField_sixBits : cmdField p.sixBits = cmdField p := by
  have h : ∀ b : Byte, (b &&& 0x3F#8).setWidth 6 = b.setWidth 6 := by decide
  simp [cmdField, Record.sixBits, h]

theorem instrField_sixBits : instrField p.sixBits = instrField p := by
  have h : ∀ b : Byte, (b &&& 0x3F#8).setWidth 6 = b.setWidth 6 := by decide
  simp [instrField, Record.sixBits, h]

theorem dataByte_sixBits (j : Fin 16) : dataByte p.sixBits j = dataByte p j &&& 0x3F#8 := by
  simp [dataByte, Record.sixBits]

theorem nibbleField_sixBits : nibbleField p.sixBits = nibbleField p := by
  have h : ∀ b : Byte, (b &&& 0x3F#8).setWidth 4 = b.setWidth 4 := by decide
  funext j
  rw [nibbleField, dataByte_sixBits, h, nibbleField]

theorem rowField_sixBits : rowField p.sixBits = rowField p := by
  have h : ∀ b : Byte, (b &&& 0x3F#8).setWidth 5 = b.setWidth 5 := by decide
  rw [rowField, dataByte_sixBits, h, rowField]

theorem colField_sixBits : colField p.sixBits = colField p := by
  have h : ∀ b : Byte, (b &&& 0x3F#8).setWidth 6 = b.setWidth 6 := by decide
  rw [colField, dataByte_sixBits, h, colField]

theorem tileRows_sixBits : tileRows p.sixBits = tileRows p := by
  have h : ∀ b : Byte, (b &&& 0x3F#8).setWidth 6 = b.setWidth 6 := by decide
  simp only [tileRows, dataByte_sixBits, h]

theorem scrollCmdField_sixBits : scrollCmdField p.sixBits = scrollCmdField p := by
  have h : ∀ b : Byte, (b &&& 0x3F#8).extractLsb' 4 2 = b.extractLsb' 4 2 := by decide
  funext j
  rw [scrollCmdField, dataByte_sixBits, h, scrollCmdField]

theorem hOffField_sixBits : hOffField p.sixBits = hOffField p := by
  have h : ∀ b : Byte, (b &&& 0x3F#8).setWidth 3 = b.setWidth 3 := by decide
  rw [hOffField, dataByte_sixBits, h, hOffField]

theorem vOffField_sixBits : vOffField p.sixBits = vOffField p := by
  have h : ∀ b : Byte, (b &&& 0x3F#8).setWidth 4 = b.setWidth 4 := by decide
  rw [vOffField, dataByte_sixBits, h, vOffField]

theorem rgbFields_sixBits : rgbFields p.sixBits = rgbFields p := by
  have hred : ∀ b : Byte, (b &&& 0x3F#8).extractLsb' 2 4 = b.extractLsb' 2 4 := by decide
  have hhigh : ∀ b : Byte, (b &&& 0x3F#8).extractLsb' 0 2 = b.extractLsb' 0 2 := by decide
  have hlow : ∀ b : Byte, (b &&& 0x3F#8).extractLsb' 4 2 = b.extractLsb' 4 2 := by decide
  have hblue : ∀ b : Byte, (b &&& 0x3F#8).extractLsb' 0 4 = b.extractLsb' 0 4 := by decide
  simp only [rgbFields, rgbOfBytes, dataByte_sixBits, hred, hhigh, hlow, hblue]

/-- R81 to R93: no field of any code reads bits 7:6 of a byte. -/
theorem decodeRecord_sixBits : decodeRecord p.sixBits = decodeRecord p := by
  simp only [decodeRecord, cmdField_sixBits, instrField_sixBits, nibbleField_sixBits, rowField_sixBits,
    colField_sixBits, tileRows_sixBits, scrollCmdField_sixBits, hOffField_sixBits, vOffField_sixBits, rgbFields_sixBits]

end

/-- R83, R86 to R93: records that agree in bits 5:0 of their header and data bytes decode alike. -/
theorem decodeRecord_congr_sixBits {p q : Record}
    (h : ∀ (j : Nat) (h : j < 24), j ≠ 2 → j ≠ 3 → j < 20 → p[j] &&& 0x3F#8 = q[j] &&& 0x3F#8) :
    decodeRecord p = decodeRecord q := by
  have hcmd : cmdField p = cmdField q := setWidth_six_eq_of_mask_eq (h 0 (by omega) (by omega) (by omega) (by omega))
  have hinstr : instrField p = instrField q :=
    setWidth_six_eq_of_mask_eq (h 1 (by omega) (by omega) (by omega) (by omega))
  have hdata : dataByte p.sixBits = dataByte q.sixBits := by
    funext j
    rw [dataByte_sixBits, dataByte_sixBits]
    exact h (4 + j.val) (by omega) (by omega) (by omega) (by omega)
  rw [← decodeRecord_sixBits p, ← decodeRecord_sixBits q]
  exact decodeRecord_congr (by rw [cmdField_sixBits, cmdField_sixBits, hcmd])
    (by rw [instrField_sixBits, instrField_sixBits, hinstr]) hdata

/-- R89: the operands of a tile record are its masked fields. -/
theorem tileOperands_fields (p : Record) : Machine.TileOperands p (nibbleField p 0) (nibbleField p 1) (rowField p)
    (colField p) (tileRows p) :=
  ⟨nibbleField_mask p 0, nibbleField_mask p 1, rowField_mask p, colField_mask p, tileRows_mask p⟩

/-- R90: the operands of a scroll record are its masked fields. -/
theorem scrollOperands_fields (p : Record) : Machine.ScrollOperands p (scrollCmdField p 1) (hOffField p)
    (scrollCmdField p 2) (vOffField p) :=
  ⟨scrollCmdField_mask p 1, hOffField_mask p, scrollCmdField_mask p 2, vOffField_mask p⟩

/-- R92: the operands of a colour record are its masked fields. -/
theorem colourOperands_fields (p : Record) : Machine.ColourOperands p (rgbFields p) := by
  intro k
  have hindex : 4 + (2 * k.val + 1) = 5 + 2 * k.val := by omega
  simpa only [rgbFields, Fin.getElem_fin, Vector.getElem_ofFn, dataByte, hindex] using
    rgbOfBytes_mask (dataByte p ⟨2 * k.val, by omega⟩) (dataByte p ⟨2 * k.val + 1, by omega⟩)

/-- Settles O10: no field reads bits 7:6, and each code decodes to the masked fields of its layout. -/
theorem onlySixBitsOfEachByteMatter : Obligations.OnlySixBitsOfEachByteMatter := by
  refine ⟨fun p q h => decodeRecord_congr_sixBits h, fun p h0 => ?_⟩
  have hcmd := (cmdField_eq_iff p).mpr h0
  have hcode {b : Byte} (h : p[1] &&& 0x3F#8 = b) : (instrField p).toNat = b.toNat := by rw [instrField_toNat, h]
  exact ⟨fun h => ⟨_, _, decodeRecord_eq_memPreset hcmd (hcode h), nibbleField_mask p 0, nibbleField_mask p 1⟩,
    fun h => ⟨_, decodeRecord_eq_borderPreset hcmd (hcode h), nibbleField_mask p 0⟩,
    fun h => ⟨_, _, _, _, _, decodeRecord_eq_tile hcmd (hcode h), tileOperands_fields p⟩,
    fun h => ⟨_, _, _, _, _, decodeRecord_eq_scrollPreset hcmd (hcode h), nibbleField_mask p 0,
      scrollOperands_fields p⟩,
    fun h => ⟨_, _, _, _, decodeRecord_eq_scrollCopy hcmd (hcode h), scrollOperands_fields p⟩,
    fun h => decodeRecord_eq_defTransp hcmd (hcode h),
    fun h => ⟨_, decodeRecord_eq_colorsLow hcmd (hcode h), colourOperands_fields p⟩,
    fun h => ⟨_, decodeRecord_eq_colorsHigh hcmd (hcode h), colourOperands_fields p⟩,
    fun h => ⟨_, _, _, _, _, decodeRecord_eq_tileXor hcmd (hcode h), tileOperands_fields p⟩⟩

/-! ## Decoding an encoded instruction (R80, R87 to R93) -/

section

variable (i : Instr)

@[simp] theorem cmdField_encode : cmdField (encode i) = Config.cdgCommand := by
  simp [cmdField, encode]

@[simp] theorem instrField_encode : instrField (encode i) = i.code := by
  simp [instrField, encode]

@[simp] theorem dataByte_encode (j : Fin 16) : dataByte (encode i) j = (encodeData i)[j.val] :=
  makeRecord_data _ _ _ j

theorem instrField_encode_toNat : (instrField (encode i)).toNat = i.code.toNat := by
  rw [instrField_encode]

end

/-- R89: the row bytes of a tile's data are its rows. -/
theorem tileData_rows (color0 color1 : BitVec 4) (row : BitVec 5) (col : BitVec 6) (bits : Vector (BitVec 6) 12)
    (k : Nat) (h : k < 12) : (tileData color0 color1 row col bits)[4 + k] = (bits[k]).setWidth 8 := by
  have h1 : 4 + k ≠ 1 := by omega
  have h2 : 4 + k ≠ 2 := by omega
  have h3 : 4 + k ≠ 3 := by omega
  simp [tileData, h1, h2, h3]

/-- R89: the fields of a tile record are the operands it was made of. -/
theorem tileFields_encode {i : Instr} {color0 color1 : BitVec 4} {row : BitVec 5} {col : BitVec 6}
    {bits : Vector (BitVec 6) 12} (h : encodeData i = tileData color0 color1 row col bits) :
    nibbleField (encode i) 0 = color0 ∧ nibbleField (encode i) 1 = color1 ∧ rowField (encode i) = row ∧
      colField (encode i) = col ∧ tileRows (encode i) = bits := by
  refine ⟨?_, ?_, ?_, ?_, ?_⟩
  · simp [nibbleField, h, tileData]
  · simp [nibbleField, h, tileData]
  · simp [rowField, h, tileData]
  · simp [colField, h, tileData]
  · apply Vector.ext
    intro k hk
    simp [tileRows, h, tileData_rows]

/-- R92: the fields of a colour record are the operands it was made of. -/
theorem rgbFields_encode {i : Instr} {rgb : Vector Rgb12 8} (h : encodeData i = rgbData rgb) :
    rgbFields (encode i) = rgb := by
  apply Vector.ext
  intro k hk
  have hodd : (2 * k + 1) / 2 = k := by omega
  simp [rgbFields, h, rgbData, hodd, rgbOfBytes_encoded]

theorem decodeRecord_encode (i : Instr) : decodeRecord (encode i) = .ok i := by
  have hcmd := cmdField_encode i
  have hcode := instrField_encode_toNat i
  cases i with
  | memPreset color rep =>
    rw [decodeRecord_eq_memPreset hcmd hcode]
    simp [nibbleField, encodeData]
  | borderPreset color =>
    rw [decodeRecord_eq_borderPreset hcmd hcode]
    simp [nibbleField, encodeData]
  | tile color0 color1 row col bits =>
    obtain ⟨h0, h1, hrow, hcol, hbits⟩ := tileFields_encode (i := .tile color0 color1 row col bits) rfl
    rw [decodeRecord_eq_tile hcmd hcode, h0, h1, hrow, hcol, hbits]
  | scrollPreset color hCmd hOffNew vCmd vOffNew =>
    obtain ⟨hc, hh, -, -⟩ := scrollByte_fields hCmd hOffNew 0#4
    obtain ⟨-, -, vc, vv⟩ := scrollByte_fields vCmd 0#3 vOffNew
    rw [decodeRecord_eq_scrollPreset hcmd hcode]
    simp [nibbleField, scrollCmdField, hOffField, vOffField, encodeData, hc, hh, vc, vv]
  | scrollCopy hCmd hOffNew vCmd vOffNew =>
    obtain ⟨hc, hh, -, -⟩ := scrollByte_fields hCmd hOffNew 0#4
    obtain ⟨-, -, vc, vv⟩ := scrollByte_fields vCmd 0#3 vOffNew
    rw [decodeRecord_eq_scrollCopy hcmd hcode]
    simp [scrollCmdField, hOffField, vOffField, encodeData, hc, hh, vc, vv]
  | defTransp => exact decodeRecord_eq_defTransp hcmd hcode
  | colorsLow rgb => rw [decodeRecord_eq_colorsLow hcmd hcode, rgbFields_encode rfl]
  | colorsHigh rgb => rw [decodeRecord_eq_colorsHigh hcmd hcode, rgbFields_encode rfl]
  | tileXor color0 color1 row col bits =>
    obtain ⟨h0, h1, hrow, hcol, hbits⟩ := tileFields_encode (i := .tileXor color0 color1 row col bits) rfl
    rw [decodeRecord_eq_tileXor hcmd hcode, h0, h1, hrow, hcol, hbits]

theorem decode_toList (p : Record) : decode p.toList = decodeRecord p := by
  simp [decode]

/-- Settles O7, constructor by constructor: the fields of an encoded record are the operands. -/
theorem encodeDecodeAgree : Obligations.EncodeDecodeAgree :=
  fun i => ⟨decodeRecord_encode i, (decode_toList _).trans (decodeRecord_encode i)⟩

/-- Settles O13: each word is decoded. -/
theorem specWordsDecode : Obligations.SpecWordsDecode := by
  unfold Obligations.SpecWordsDecode
  decide

end Sys2Proof

namespace Sys2Proof.Machine

theorem consumeRecord_nonCdg {p : Record} (h : decodeRecord p = .error .nonCdg) (s : State) :
    consumeRecord p s = consumeNop s := by
  unfold consumeRecord
  rw [h]

theorem consumeRecord_unused {p : Record} {code : BitVec 6} (h : decodeRecord p = .error (.unusedCode code))
    (s : State) : consumeRecord p s = consumeUnused s := by
  unfold consumeRecord
  rw [h]

/-- Settles O17: such a record decodes to no instruction, and its effect is that of its reason. -/
theorem packetsOutsideTableAreNops : Obligations.PacketsOutsideTableAreNops := by
  refine fun p s => ⟨fun h0 => ?_, fun h0 h1 => ?_⟩
  · have hdec := decodeRecord_of_nonCdg (mt (cmdField_eq_iff p).mp h0)
    exact ⟨_, consumeRecord_nonCdg hdec s, rfl, consumed_advance s s.canvas false⟩
  · have hcode : instrField p ∉ [1#6, 2#6, 6#6, 20#6, 24#6, 28#6, 30#6, 31#6, 38#6] := by
      rw [← instrField_toNat] at h1
      exact fun hmem => h1 (List.mem_map_of_mem (f := BitVec.toNat) hmem)
    have hdec := decodeRecord_of_unused ((cmdField_eq_iff p).mpr h0) hcode
    exact ⟨_, consumeRecord_unused hdec s, rfl, consumed_advance s _ false⟩

end Sys2Proof.Machine

/-! The record at the cursor is the one a step runs (R110), placed there by LOAD or by `withFetchWord`. -/

namespace Sys2Proof.Machine

theorem consumeRecord_ok {p : Record} {i : Instr} (h : decodeRecord p = .ok i) (s : State) :
    consumeRecord p s = exec i s := by
  unfold consumeRecord
  rw [h]

/-- A step that wants a packet runs the record at the cursor, where there is one. -/
theorem step_eq_consumeRecord {s : State} (hloaded : s.loaded = true) (hwants : wantsPacket s = true)
    (hleft : s.reader.pktIdx < s.packets) :
    step s = andThen (consumeRecord (s.buf.record s.reader.pktIdx) s) fun t => .next (afterPacket t) := by
  rw [step_of_wantsPacket hwants, consume_eq_consumeRecord hloaded hleft]

/-- Settles O15: the 24 bytes at the cursor are the record there. -/
theorem stepRunsDecodedInstruction : Obligations.StepRunsDecodedInstruction := by
  intro s bs hloaded hwants hbytes
  obtain ⟨hleft, hbs⟩ := Memory.readBytes_record hbytes
  have hdecode : decode bs = decodeRecord (s.buf.record s.reader.pktIdx) := by rw [hbs, decode_toList]
  rw [step_eq_consumeRecord hloaded hwants hleft, hdecode]
  refine ⟨fun i hi => ?_, fun hnop => ?_, fun code hunused => ?_⟩
  · rw [consumeRecord_ok hi]
  · rw [consumeRecord_nonCdg hnop]
  · rw [consumeRecord_unused hunused]

/-- A staged record is wanted by the next step. -/
theorem wantsPacket_stageRecord (p : Record) (s : State) : wantsPacket (stageRecord p s) = true := by
  have hleft : s.reader.pktIdx ≠ (stageRecord p s).packets :=
    Nat.ne_of_lt (Memory.packets_storeRecord s.buf s.reader.pktIdx p)
  have hphase : (stageRecord p s).phase = fetchingPhase s := rfl
  have hidx : (stageRecord p s).reader = s.reader := rfl
  unfold wantsPacket
  rw [hphase, hidx]
  cases hp : s.phase with
  | idle => simpa [fetchingPhase, hp] using hleft
  | baseline => simpa [fetchingPhase, hp] using hleft
  | frameLoop => simpa [fetchingPhase, hp] using hleft
  | seekTo target =>
    by_cases hlt : s.reader.pktIdx < target
    · simp [fetchingPhase, hp, hlt]
    · simpa [fetchingPhase, hp, hlt] using hleft

/-- A staged record is run by the next step. -/
theorem step_stageRecord {p : Record} {i : Instr} {s : State} (hwf : s.buf.wf = true) (hdec : decodeRecord p = .ok i) :
    step (stageRecord p s) = andThen (exec i (stageRecord p s)) fun t => .next (afterPacket t) := by
  have hrecord : (stageRecord p s).buf.record (stageRecord p s).reader.pktIdx = p :=
    Memory.record_storeRecord hwf s.reader.pktIdx p
  have hleft : (stageRecord p s).reader.pktIdx < (stageRecord p s).packets :=
    Memory.packets_storeRecord s.buf s.reader.pktIdx p
  rw [step_eq_consumeRecord rfl (wantsPacket_stageRecord p s) hleft, hrecord, consumeRecord_ok hdec]

/-- Settles O16: a table word is placed by staging its record, which decodes to the word's instruction. -/
theorem placedWordRunsNext : Obligations.PlacedWordRunsNext := by
  intro s nbits w i hwf hword
  have hdec : decodeRecord (recordOfTableWord nbits w) = .ok i := by
    unfold decodeTableWord at hword
    cases hd : decodeRecord (recordOfTableWord nbits w) with
    | ok j => rw [hd] at hword; simpa [Except.toOption] using hword
    | error r => rw [hd] at hword; cases hword
  exact step_stageRecord hwf hdec

end Sys2Proof.Machine

/-! Frames (R211 to R215), byte by byte. -/

namespace Sys2Proof.Machine

/-- R211: the cell that a pixel shows. -/
theorem visible_eq_cell {cv : Canvas} {x : Fin 288} {y : Fin 192} {r : Fin 216} {c : Fin 300}
    (hr : r.val = 12 + cv.vOff.val + y.val) (hc : c.val = 6 + cv.hOff.val + x.val) :
    visible cv x y = cv.grid.cell r c :=
  congrArg₂ cv.grid.cell (Fin.ext hr.symm) (Fin.ext hc.symm)

/-- Settles O36, by the bitmap part of a snapshot. -/
theorem frameShowsCropWindow : Obligations.FrameShowsCropWindow := by
  refine fun p cv => ⟨snapshot_size p cv, fun x y r c hr hc => ?_⟩
  rw [snapshot_read_bitmap, visible_eq_cell hr hc]

/-- R213, D4: the three bytes of an entry in the default layout. -/
theorem snapshot_read_entry {p : Params} (hp : p.paletteLayout = PaletteLayout.rgb888x16) (cv : Canvas) (i : Fin 16) :
    (snapshot p cv).read (55296 + 3 * i.val) = some (cv.pal[i]).r ∧
      (snapshot p cv).read (55296 + 3 * i.val + 1) = some (cv.pal[i]).g ∧
      (snapshot p cv).read (55296 + 3 * i.val + 2) = some (cv.pal[i]).b := by
  have hbyte (ch : Fin 3) := snapshot_read_palette p cv (3 * i.val + ch.val)
  simp only [hp, rgb888x16_getElem, Option.map_some] at hbyte
  exact ⟨hbyte 0, hbyte 1, hbyte 2⟩

/-- R213, D4: the size of a frame in the default layout. -/
theorem snapshot_size_of_rgb888x16 {p : Params} (hp : p.paletteLayout = PaletteLayout.rgb888x16) (cv : Canvas) :
    (snapshot p cv).size = 55344 := by
  rw [snapshot_size, Params.imageSize, hp, rgb888x16_length]

/-- R212: the bitmap part of a frame is the bitmap, whatever the parameters are. -/
theorem snapshot_read_of_lt (p : Params) (cv : Canvas) {a : Nat} (ha : a < 55296) :
    (snapshot p cv).read a = (bitmap cv)[a]? := by
  rw [snapshot, Memory.read_ofBytes, List.getElem?_append_left (by rw [bitmap_length]; exact ha)]

/-- Settles O37: the palette part of the default layout, and the bitmap part of any. -/
theorem frameCarriesPalette : Obligations.FrameCarriesPalette :=
  ⟨fun _ cv hp => ⟨snapshot_size_of_rgb888x16 hp cv, snapshot_read_entry hp cv⟩,
    fun p q cv _ ha => (snapshot_read_of_lt p cv ha).trans (snapshot_read_of_lt q cv ha).symm⟩

/-- R214: the compositor reads a pixel's byte, and then the three bytes of the entry it names. -/
theorem composite_of_reads {f : Memory} {x : Fin 288} {y : Fin 192} {i r g b : Byte}
    (hi : f.read (y.val * 288 + x.val) = some i) (hr : f.read (55296 + 3 * i.toNat) = some r)
    (hg : f.read (55296 + 3 * i.toNat + 1) = some g) (hb : f.read (55296 + 3 * i.toNat + 2) = some b) :
    composite f x y = some ⟨r, g, b⟩ := by
  simp only [composite, hi, hr, hg, hb]

/-- Settles O38: a pixel's byte is the index of the entry whose three bytes the compositor reads. -/
theorem compositorShowsPalette : Obligations.CompositorShowsPalette := by
  intro p cv x y hp
  have hindex : ((visible cv x y).setWidth 8).toNat = (visible cv x y).toNat :=
    BitVec.toNat_setWidth_of_le (by decide)
  obtain ⟨hr, hg, hb⟩ := snapshot_read_entry hp cv ⟨(visible cv x y).toNat, (visible cv x y).isLt⟩
  exact composite_of_reads (snapshot_read_bitmap p cv x y) (by rw [hindex]; exact hr) (by rw [hindex]; exact hg)
    (by rw [hindex]; exact hb)

/-- R215: canvases that agree in the crop window under equal offsets show the same pixels. -/
theorem visible_congr {a b : Canvas} (hh : a.hOff = b.hOff) (hv : a.vOff = b.vOff)
    (h : ∀ (r : Fin 216) (c : Fin 300), 12 ≤ r.val → r.val ≤ 214 → 6 ≤ c.val → c.val ≤ 298 →
      a.grid.cell r c = b.grid.cell r c) : visible a = visible b := by
  funext x y
  have hx := x.isLt
  have hy := y.isLt
  have hhOff := b.hOff.isLt
  have hvOff := b.vOff.isLt
  rw [visible, visible]
  simp only [hh, hv, Config.visRow0, Config.visCol0]
  exact h _ _ (by simp only; omega) (by simp only; omega) (by simp only; omega) (by simp only; omega)

/-- Settles O39: a snapshot is made of the visible cells and the palette. -/
theorem borderCellsNeverVisible : Obligations.BorderCellsNeverVisible := by
  intro p a b hpal hh hv h
  have hbitmap : bitmap a = bitmap b := by
    unfold bitmap
    rw [visible_congr hh hv h]
  rw [snapshot, snapshot, hbitmap, hpal]

end Sys2Proof.Machine

/-! The assembler (R100): the operand numbers as fields, the data bytes of a line, and where a line is an error. -/

namespace Sys2Proof

/-! ## Numbers as fields -/

/-- A number that fits a field is the same byte. -/
theorem setWidth_ofNat_of_lt {w n : Nat} (h : n < 2 ^ w) : (BitVec.ofNat w n).setWidth 8 = BitVec.ofNat 8 n := by
  apply BitVec.eq_of_toNat_eq
  simp [Nat.mod_eq_of_lt h]

/-- R90: a scroll byte from its two numbers. -/
theorem scrollByte_ofNat {cmd : Nat} (hcmd : cmd < 4) :
    (∀ off, off < 8 → scrollByte (BitVec.ofNat 2 cmd) (BitVec.ofNat 3 off) = BitVec.ofNat 8 (cmd * 16 + off)) ∧
    ∀ off, off < 16 → scrollByte (BitVec.ofNat 2 cmd) (BitVec.ofNat 4 off) = BitVec.ofNat 8 (cmd * 16 + off) := by
  have h3 : ∀ (c : BitVec 2) (o : BitVec 3), scrollByte c o = BitVec.ofNat 8 (c.toNat * 16 + o.toNat) := by decide
  have h4 : ∀ (c : BitVec 2) (o : BitVec 4), scrollByte c o = BitVec.ofNat 8 (c.toNat * 16 + o.toNat) := by decide
  refine ⟨fun off hoff => ?_, fun off hoff => ?_⟩
  · rw [h3, BitVec.toNat_ofNat, BitVec.toNat_ofNat, Nat.mod_eq_of_lt hcmd, Nat.mod_eq_of_lt hoff]
  · rw [h4, BitVec.toNat_ofNat, BitVec.toNat_ofNat, Nat.mod_eq_of_lt hcmd, Nat.mod_eq_of_lt hoff]

/-- R92: a 12-bit colour from its three channels. -/
def Rgb12.toNat (c : Rgb12) : Nat := c.r.toNat * 256 + c.g.toNat * 16 + c.b.toNat

theorem Rgb12.toNat_lt (c : Rgb12) : c.toNat < 4096 := by
  have := c.r.isLt
  have := c.g.isLt
  have := c.b.isLt
  simp only [Rgb12.toNat]
  omega

theorem rgbBytes_toNat (c : Rgb12) : rgbBytes c.toNat = [rgbHighByte c, rgbLowByte c] := by
  have hr := c.r.isLt
  have hg := c.g.isLt
  have hb := c.b.isLt
  have hchannels :
      (⟨BitVec.ofNat 4 (c.toNat / 256), BitVec.ofNat 4 (c.toNat / 16), BitVec.ofNat 4 c.toNat⟩ : Rgb12) = c := by
    obtain ⟨r, g, b⟩ := c
    simp only [Rgb12.toNat, Rgb12.mk.injEq]
    simp only at hr hg hb
    refine ⟨?_, ?_, ?_⟩ <;> apply BitVec.eq_of_toNat_eq <;> rw [BitVec.toNat_ofNat] <;> omega
  simp only [rgbBytes, hchannels]

/-! ## The data bytes of a line -/

theorem asmBytes_length (ns : List Nat) : (asmBytes ns).length = ns.length := List.length_map _

theorem asmBytes_getD {ns : List Nat} {j : Nat} : (asmBytes ns).getD j 0#8 = BitVec.ofNat 8 (ns.getD j 0) := by
  simp only [asmBytes, List.getD_eq_getElem?_getD, List.getElem?_map]
  cases ns[j]? <;> rfl

/-- R100: a record whose data bytes are all given, as 24 bytes. -/
theorem asmPacket_toList {byte1 : Byte} {data : List Byte} (h : data.length = 16) :
    (asmPacket byte1 data).toList = [0x09#8, byte1, 0#8, 0#8] ++ data ++ [0#8, 0#8, 0#8, 0#8] := by
  apply List.ext_getElem
  · simp [h]
  · intro j h1 h2
    have hj : j < 24 := by simpa using h1
    simp only [Vector.getElem_toList]
    by_cases hhead : j < 4
    · obtain rfl | rfl | rfl | rfl : j = 0 ∨ j = 1 ∨ j = 2 ∨ j = 3 := by omega
      all_goals simp [asmPacket, makeRecord]
    · by_cases hdata : j < 20
      · have h0 : j ≠ 0 := by omega
        have h1 : j ≠ 1 := by omega
        have hin : 4 ≤ j ∧ j < 20 := by omega
        have hlt : j - 4 < data.length := by omega
        rw [List.getElem_append_left (by simp [h]; omega), List.getElem_append_right (by simp; omega)]
        simp [asmPacket, makeRecord, h0, h1, hin, List.getD_eq_getElem?_getD, hlt]
      · have hparity : (asmPacket byte1 data)[j] = 0#8 := makeRecord_parity _ _ _ j hj (by omega)
        have hzero : ∀ b ∈ [0#8, 0#8, 0#8, 0#8], b = 0#8 := by decide
        rw [hparity, List.getElem_append_right (by simp [h]; omega)]
        exact (hzero _ (List.getElem_mem _)).symm

/-- R89: the bytes that a TILE line writes are the tile's data. -/
theorem dataFrom_tile {c0 c1 row col : Nat} (bits : Vector (BitVec 6) 12) (h0 : c0 < 16) (h1 : c1 < 16)
    (hrow : row < 32) (hcol : col < 64) :
    dataFrom (asmBytes ([c0, c1, row, col] ++ bits.toList.map BitVec.toNat)) =
      tileData (.ofNat 4 c0) (.ofNat 4 c1) (.ofNat 5 row) (.ofNat 6 col) bits := by
  apply Vector.ext
  intro j hj
  rw [dataFrom_getElem, asmBytes_getD]
  by_cases hhead : j < 4
  · obtain rfl | rfl | rfl | rfl : j = 0 ∨ j = 1 ∨ j = 2 ∨ j = 3 := by omega
    · simp [tileData, setWidth_ofNat_of_lt (w := 4) h0]
    · simp [tileData, setWidth_ofNat_of_lt (w := 4) h1]
    · simp [tileData, setWidth_ofNat_of_lt (w := 5) hrow]
    · simp [tileData, setWidth_ofNat_of_lt (w := 6) hcol]
  · obtain ⟨k, rfl⟩ : ∃ k, j = 4 + k := ⟨j - 4, by omega⟩
    have hk : k < 12 := by omega
    have hbyte : BitVec.ofNat 8 (bits[k]).toNat = (bits[k]).setWidth 8 := by
      rw [← setWidth_ofNat_of_lt (bits[k]).isLt, BitVec.ofNat_toNat, BitVec.setWidth_eq]
    rw [tileData_rows _ _ _ _ _ k hk, ← hbyte]
    simp [List.getD_eq_getElem?_getD, Nat.add_comm 4 k, hk]

/-- A list of pairs, laid out flat. -/
theorem getElem?_flatMap_pair {α β : Type} (f g : α → β) (l : List α) (k : Nat) :
    (l.flatMap fun x => [f x, g x])[2 * k]? = (l[k]?).map f ∧
      (l.flatMap fun x => [f x, g x])[2 * k + 1]? = (l[k]?).map g := by
  induction l generalizing k with
  | nil => simp
  | cons x xs ih =>
    cases k with
    | zero => simp
    | succ k => simpa [Nat.mul_succ] using ih k

/-- R92: the bytes that a colour line writes are the colours' data. -/
theorem dataFrom_colours (rgb : Vector Rgb12 8) :
    dataFrom ((rgb.toList.map Rgb12.toNat).flatMap rgbBytes) = rgbData rgb := by
  apply Vector.ext
  intro j hj
  have hlt : j / 2 < 8 := by omega
  obtain ⟨heven, hodd⟩ := getElem?_flatMap_pair rgbHighByte rgbLowByte rgb.toList (j / 2)
  simp only [List.flatMap_map, rgbBytes_toNat, dataFrom_getElem, List.getD_eq_getElem?_getD, rgbData,
    Vector.getElem_ofFn]
  obtain hmod | hmod := Nat.mod_two_eq_zero_or_one j
  · have hj2 : 2 * (j / 2) = j := by omega
    rw [hj2] at heven
    simp [heven, hmod, hlt]
  · have hj2 : 2 * (j / 2) + 1 = j := by omega
    rw [hj2] at hodd
    simp [hodd, hmod, hlt]

/-! ## A line that is no error -/

theorem assemble_eq_some {l : SrcLine} {rs : List Record} (hwf : l.wf = true) (hrs : l.records = rs) :
    l.assemble = some rs := by
  rw [SrcLine.assemble, if_pos hwf, hrs]

theorem assemble_eq_none_iff (l : SrcLine) : l.assemble = none ↔ l.wf = false := by
  cases h : l.wf <;> simp [SrcLine.assemble, h]

theorem tileHeadFits_of_lt {c0 c1 row col : Nat} (h0 : c0 < 16) (h1 : c1 < 16) (hrow : row < 32) (hcol : col < 64) :
    SrcLine.tileHeadFits c0 c1 row col = true := by
  simp [SrcLine.tileHeadFits, h0, h1, hrow, hcol]

theorem scrollFits_of_lt {hcmd hoff vcmd voff : Nat} (h1 : hcmd < 4) (h2 : hoff < 8) (h3 : vcmd < 4) (h4 : voff < 16) :
    SrcLine.scrollFits hcmd hoff vcmd voff = true := by
  simp [SrcLine.scrollFits, h1, h2, h3, h4]

theorem assemble_memPreset {color rep : Nat} (hcolor : color < 16) (hrep : rep < 16) :
    (SrcLine.memPreset color rep).assemble = some [encode (.memPreset (.ofNat 4 color) (.ofNat 4 rep))] := by
  refine assemble_eq_some (by simp [SrcLine.wf, hcolor, hrep]) ?_
  simp [SrcLine.records, asmPacket, encode, encodeData, asmBytes, Instr.code, setWidth_ofNat_of_lt (w := 4) hcolor,
    setWidth_ofNat_of_lt (w := 4) hrep]

theorem assemble_borderPreset {color : Nat} (hcolor : color < 16) :
    (SrcLine.borderPreset color).assemble = some [encode (.borderPreset (.ofNat 4 color))] := by
  refine assemble_eq_some (by simp [SrcLine.wf, hcolor]) ?_
  simp [SrcLine.records, asmPacket, encode, encodeData, asmBytes, Instr.code, setWidth_ofNat_of_lt (w := 4) hcolor]

theorem assemble_scrollPreset {color hcmd hoff vcmd voff : Nat} (hcolor : color < 16) (h1 : hcmd < 4) (h2 : hoff < 8)
    (h3 : vcmd < 4) (h4 : voff < 16) : (SrcLine.scrollPreset color hcmd hoff vcmd voff).assemble =
      some [encode (.scrollPreset (.ofNat 4 color) (.ofNat 2 hcmd) (.ofNat 3 hoff) (.ofNat 2 vcmd)
        (.ofNat 4 voff))] := by
  refine assemble_eq_some (by simp [SrcLine.wf, hcolor, scrollFits_of_lt h1 h2 h3 h4]) ?_
  simp [SrcLine.records, asmPacket, encode, encodeData, asmBytes, Instr.code, setWidth_ofNat_of_lt (w := 4) hcolor,
    (scrollByte_ofNat h1).1 _ h2, (scrollByte_ofNat h3).2 _ h4]

theorem assemble_scrollCopy {hcmd hoff vcmd voff : Nat} (h1 : hcmd < 4) (h2 : hoff < 8) (h3 : vcmd < 4)
    (h4 : voff < 16) : (SrcLine.scrollCopy hcmd hoff vcmd voff).assemble =
      some [encode (.scrollCopy (.ofNat 2 hcmd) (.ofNat 3 hoff) (.ofNat 2 vcmd) (.ofNat 4 voff))] := by
  refine assemble_eq_some (scrollFits_of_lt h1 h2 h3 h4) ?_
  simp [SrcLine.records, asmPacket, encode, encodeData, asmBytes, Instr.code, (scrollByte_ofNat h1).1 _ h2,
    (scrollByte_ofNat h3).2 _ h4]

theorem assemble_defTransp : (SrcLine.defTransp).assemble = some [encode .defTransp] :=
  assemble_eq_some rfl rfl

theorem rows_lt_256 (bits : Vector (BitVec 6) 12) : ∀ b ∈ bits.toList.map BitVec.toNat, b < 256 := by
  simp only [List.mem_map, forall_exists_index, and_imp, forall_apply_eq_imp_iff₂]
  intro b _
  have := b.isLt
  omega

/-- R100: a TILE or TILEXOR line of whole bytes is no error. -/
theorem wf_tile {c0 c1 row col : Nat} {rows : List Nat} (h0 : c0 < 16) (h1 : c1 < 16) (hrow : row < 32)
    (hcol : col < 64) (hlen : rows.length = 12) (hrows : ∀ b ∈ rows, b < 256) :
    (SrcLine.tile c0 c1 row col rows).wf = true ∧ (SrcLine.tileXor c0 c1 row col rows).wf = true := by
  simpa [SrcLine.wf, tileHeadFits_of_lt h0 h1 hrow hcol, hlen] using hrows

theorem assemble_tile {c0 c1 row col : Nat} (bits : Vector (BitVec 6) 12) (h0 : c0 < 16) (h1 : c1 < 16)
    (hrow : row < 32) (hcol : col < 64) :
    (SrcLine.tile c0 c1 row col (bits.toList.map BitVec.toNat)).assemble =
      some [encode (.tile (.ofNat 4 c0) (.ofNat 4 c1) (.ofNat 5 row) (.ofNat 6 col) bits)] ∧
    (SrcLine.tileXor c0 c1 row col (bits.toList.map BitVec.toNat)).assemble =
      some [encode (.tileXor (.ofNat 4 c0) (.ofNat 4 c1) (.ofNat 5 row) (.ofNat 6 col) bits)] := by
  obtain ⟨hwf, hwfXor⟩ := wf_tile h0 h1 hrow hcol (by simp) (rows_lt_256 bits)
  have hdata := dataFrom_tile bits h0 h1 hrow hcol
  refine ⟨assemble_eq_some hwf ?_, assemble_eq_some hwfXor ?_⟩
  · rw [SrcLine.records, asmPacket, hdata]; rfl
  · rw [SrcLine.records, asmPacket, hdata]; rfl

theorem assemble_colours (rgb : Vector Rgb12 8) :
    (SrcLine.colorsLow (rgb.toList.map Rgb12.toNat)).assemble = some [encode (.colorsLow rgb)] ∧
    (SrcLine.colorsHigh (rgb.toList.map Rgb12.toNat)).assemble = some [encode (.colorsHigh rgb)] := by
  have hwf : (SrcLine.colorsLow (rgb.toList.map Rgb12.toNat)).wf = true := by
    simp [SrcLine.wf, Rgb12.toNat_lt]
  have hdata := dataFrom_colours rgb
  refine ⟨assemble_eq_some hwf ?_, assemble_eq_some hwf ?_⟩
  · rw [SrcLine.records, asmPacket, hdata]; rfl
  · rw [SrcLine.records, asmPacket, hdata]; rfl

/-! ## Tiles of whole bytes -/

/-- R100: the record of a TILE or TILEXOR line, its row bytes as they stand. -/
def tileRecord (byte1 : Byte) (c0 c1 row col : Nat) (rows : List Nat) : Record :=
  asmPacket byte1 (asmBytes ([c0, c1, row, col] ++ rows))

theorem tileRecord_toList {c0 c1 row col : Nat} {rows : List Nat} (byte1 : Byte) (h0 : c0 < 16) (h1 : c1 < 16)
    (hrow : row < 32) (hcol : col < 64) (hlen : rows.length = 12) (hrows : ∀ b ∈ rows, b < 256) :
    (tileRecord byte1 c0 c1 row col rows).toList.map BitVec.toNat =
      [0x09, byte1.toNat, 0, 0, c0, c1, row, col] ++ rows ++ [0, 0, 0, 0] := by
  have hbytes : (asmBytes rows).map BitVec.toNat = rows := by
    rw [asmBytes, List.map_map]
    exact (List.map_congr_left fun b hb => by simp [Nat.mod_eq_of_lt (hrows b hb)]).trans (List.map_id rows)
  have hhead : (asmBytes [c0, c1, row, col]).map BitVec.toNat = [c0, c1, row, col] := by
    simp [asmBytes]
    omega
  rw [tileRecord, asmPacket_toList (by simp [asmBytes_length, hlen])]
  simp only [asmBytes, List.map_append] at hbytes hhead ⊢
  rw [hbytes, hhead]
  rfl

/-- R89: the operands of such a record are the low bits of its bytes. -/
theorem tileRecord_fields (byte1 : Byte) (c0 c1 row col : Nat) (rows : List Nat) :
    nibbleField (tileRecord byte1 c0 c1 row col rows) 0 = .ofNat 4 c0 ∧
      nibbleField (tileRecord byte1 c0 c1 row col rows) 1 = .ofNat 4 c1 ∧
      rowField (tileRecord byte1 c0 c1 row col rows) = .ofNat 5 row ∧
      colField (tileRecord byte1 c0 c1 row col rows) = .ofNat 6 col ∧
      tileRows (tileRecord byte1 c0 c1 row col rows) = Vector.ofFn fun i => .ofNat 6 (rows.getD i.val 0) := by
  have hbyte (j : Fin 16) : dataByte (tileRecord byte1 c0 c1 row col rows) j =
      BitVec.ofNat 8 (([c0, c1, row, col] ++ rows).getD j.val 0) := by
    rw [tileRecord, asmPacket, makeRecord_data, dataFrom_getElem, asmBytes_getD]
  have hwidth (w n : Nat) (hw : w ≤ 8) : (BitVec.ofNat 8 n).setWidth w = BitVec.ofNat w n :=
    BitVec.setWidth_ofNat_of_le hw n
  refine ⟨?_, ?_, ?_, ?_, ?_⟩
  · rw [nibbleField, hbyte, hwidth 4 _ (by omega)]; rfl
  · rw [nibbleField, hbyte, hwidth 4 _ (by omega)]; rfl
  · rw [rowField, hbyte, hwidth 5 _ (by omega)]; rfl
  · rw [colField, hbyte, hwidth 6 _ (by omega)]; rfl
  · simp only [tileRows, hbyte, hwidth 6 _ (by omega : 6 ≤ 8)]
    apply Vector.ext
    intro k hk
    simp [List.getD_eq_getElem?_getD, Nat.add_comm 4 k]

theorem assemble_tile_bytes {c0 c1 row col : Nat} {rows : List Nat} (h0 : c0 < 16) (h1 : c1 < 16) (hrow : row < 32)
    (hcol : col < 64) (hlen : rows.length = 12) (hrows : ∀ b ∈ rows, b < 256) :
    ∃ p q : Record, (SrcLine.tile c0 c1 row col rows).assemble = some [p] ∧
      (SrcLine.tileXor c0 c1 row col rows).assemble = some [q] ∧
      p.toList.map BitVec.toNat = [0x09, 0x06, 0, 0, c0, c1, row, col] ++ rows ++ [0, 0, 0, 0] ∧
      q.toList.map BitVec.toNat = [0x09, 0x26, 0, 0, c0, c1, row, col] ++ rows ++ [0, 0, 0, 0] ∧
      decodeRecord p = .ok (.tile (.ofNat 4 c0) (.ofNat 4 c1) (.ofNat 5 row) (.ofNat 6 col)
        (Vector.ofFn fun i => .ofNat 6 (rows.getD i.val 0))) ∧
      decodeRecord q = .ok (.tileXor (.ofNat 4 c0) (.ofNat 4 c1) (.ofNat 5 row) (.ofNat 6 col)
        (Vector.ofFn fun i => .ofNat 6 (rows.getD i.val 0))) := by
  obtain ⟨hwf, hwfXor⟩ := wf_tile h0 h1 hrow hcol hlen hrows
  have hcmd (byte1 : Byte) : cmdField (tileRecord byte1 c0 c1 row col rows) = Config.cdgCommand := by
    simp [cmdField, tileRecord, asmPacket]
  have hinstr (byte1 : Byte) : instrField (tileRecord byte1 c0 c1 row col rows) = byte1.setWidth 6 := by
    simp [instrField, tileRecord, asmPacket]
  refine ⟨tileRecord 0x06#8 c0 c1 row col rows, tileRecord 0x26#8 c0 c1 row col rows, assemble_eq_some hwf rfl,
    assemble_eq_some hwfXor rfl, tileRecord_toList _ h0 h1 hrow hcol hlen hrows,
    tileRecord_toList _ h0 h1 hrow hcol hlen hrows, ?_, ?_⟩
  · obtain ⟨e0, e1, er, ec, eb⟩ := tileRecord_fields 0x06#8 c0 c1 row col rows
    rw [decodeRecord_eq_tile (hcmd _) (by rw [hinstr]; rfl), e0, e1, er, ec, eb]
  · obtain ⟨e0, e1, er, ec, eb⟩ := tileRecord_fields 0x26#8 c0 c1 row col rows
    rw [decodeRecord_eq_tileXor (hcmd _) (by rw [hinstr]; rfl), e0, e1, er, ec, eb]

/-! ## Pseudo-instructions -/

theorem assemble_raw (p : Record) : (SrcLine.raw (p.toList.map BitVec.toNat)).assemble = some [p] := by
  have hwf : (SrcLine.raw (p.toList.map BitVec.toNat)).wf = true := by
    simpa [SrcLine.wf] using fun (j : Nat) (_ : j < 24) => (p[j]).isLt
  refine assemble_eq_some hwf ?_
  simp only [SrcLine.records, List.cons.injEq, and_true]
  apply Vector.ext
  intro j hj
  simp [asmBytes, List.getD_eq_getElem?_getD]

/-- R100: TILE1 and TILEXOR1 are tiles of twelve equal row bytes. -/
theorem assemble_tile1 (c0 c1 row col b : Nat) :
    (SrcLine.tile1 c0 c1 row col b).assemble = (SrcLine.tile c0 c1 row col (List.replicate 12 b)).assemble ∧
    (SrcLine.tileXor1 c0 c1 row col b).assemble = (SrcLine.tileXor c0 c1 row col (List.replicate 12 b)).assemble := by
  simp [SrcLine.assemble, SrcLine.wf, SrcLine.records]

/-! ## A line that is an error -/

theorem tileHeadFits_eq_false_iff (c0 c1 row col : Nat) :
    SrcLine.tileHeadFits c0 c1 row col = false ↔ 16 ≤ c0 ∨ 16 ≤ c1 ∨ 32 ≤ row ∨ 64 ≤ col := by
  simp only [SrcLine.tileHeadFits, Bool.and_eq_false_iff, decide_eq_false_iff_not, Nat.not_lt, or_assoc]

theorem scrollFits_eq_false_iff (hcmd hoff vcmd voff : Nat) :
    SrcLine.scrollFits hcmd hoff vcmd voff = false ↔ 4 ≤ hcmd ∨ 8 ≤ hoff ∨ 4 ≤ vcmd ∨ 16 ≤ voff := by
  simp only [SrcLine.scrollFits, Bool.and_eq_false_iff, decide_eq_false_iff_not, Nat.not_lt, or_assoc]

/-- A list of operands of the wrong number, or with one too wide. -/
theorem operands_eq_false_iff (n bound : Nat) (l : List Nat) :
    (l.length == n && l.all (· < bound)) = false ↔ l.length ≠ n ∨ ∃ x ∈ l, bound ≤ x := by
  simp [imp_iff_not_or]

theorem wf_tile_eq_false_iff (c0 c1 row col : Nat) (rows : List Nat) : (SrcLine.tile c0 c1 row col rows).wf = false ↔
    16 ≤ c0 ∨ 16 ≤ c1 ∨ 32 ≤ row ∨ 64 ≤ col ∨ rows.length ≠ 12 ∨ ∃ b ∈ rows, 256 ≤ b := by
  rw [SrcLine.wf, Bool.and_assoc, Bool.and_eq_false_iff, tileHeadFits_eq_false_iff, operands_eq_false_iff]
  simp only [or_assoc]

theorem wf_tile1_eq_false_iff (c0 c1 row col b : Nat) : (SrcLine.tile1 c0 c1 row col b).wf = false ↔
    16 ≤ c0 ∨ 16 ≤ c1 ∨ 32 ≤ row ∨ 64 ≤ col ∨ 256 ≤ b := by
  rw [SrcLine.wf, Bool.and_eq_false_iff, tileHeadFits_eq_false_iff, decide_eq_false_iff_not, Nat.not_lt]
  simp only [or_assoc]

/-- Settles O14, form by form of R100: first the lines that are no error, then, line by line, where one is. -/
theorem assemblerEncodes : Obligations.AssemblerEncodes := by
  refine ⟨fun _ _ => assemble_memPreset, fun _ => assemble_borderPreset, fun _ _ _ _ _ => assemble_scrollPreset,
    fun _ _ _ _ => assemble_scrollCopy, assemble_defTransp, fun _ _ _ _ bits => assemble_tile bits, assemble_colours,
    fun _ _ _ _ _ => assemble_tile_bytes, assemble_eq_some rfl rfl, fun _ => assemble_eq_some rfl rfl, assemble_raw,
    assemble_tile1, fun l => ?_⟩
  rw [assemble_eq_none_iff]
  cases l with
  | nop => simp [SrcLine.wf]
  | defTransp => simp [SrcLine.wf]
  | pad _ => simp [SrcLine.wf]
  | memPreset _ _ => simp [SrcLine.wf, imp_iff_not_or]
  | borderPreset _ => simp [SrcLine.wf]
  | scrollPreset _ _ _ _ _ =>
    simp only [SrcLine.wf, Bool.and_eq_false_iff, decide_eq_false_iff_not, Nat.not_lt, scrollFits_eq_false_iff]
  | scrollCopy _ _ _ _ => exact scrollFits_eq_false_iff _ _ _ _
  | colorsLow _ => exact operands_eq_false_iff 8 4096 _
  | colorsHigh _ => exact operands_eq_false_iff 8 4096 _
  | raw _ => exact operands_eq_false_iff 24 256 _
  | tile _ _ _ _ _ => exact wf_tile_eq_false_iff _ _ _ _ _
  | tileXor _ _ _ _ _ => exact wf_tile_eq_false_iff _ _ _ _ _
  | tile1 _ _ _ _ _ => exact wf_tile1_eq_false_iff _ _ _ _ _
  | tileXor1 _ _ _ _ _ => exact wf_tile1_eq_false_iff _ _ _ _ _

end Sys2Proof

/-! Power-on (R53), what reaches the idle block, and the loops of MOVE at their tests. -/

namespace Sys2Proof.Machine

/-- Settles O1: the power-on column. -/
theorem powerOnIsFresh : Obligations.PowerOnIsFresh :=
  ⟨rfl, rfl, fun _ => rfl, cell_fill 0#4, fun i => fresh_pal i.val i.isLt, rfl, rfl, rfl, rfl, rfl, rfl, rfl, rfl, rfl,
    rfl⟩

/-- Settles O2: power-on is what UNLOAD leaves, and a fresh start is replayed by no packet. -/
theorem powerOnSatisfiesInv : Obligations.PowerOnSatisfiesInv :=
  ⟨stateInv_unloadStream (s := State.reset) rfl rfl, replayed_of_fresh rfl rfl⟩

/-! ## A transaction reaches the idle block (R70, R230 to R232, R241) -/

theorem step_idle_cons {s : State} {tr : Transaction} {rest : List Transaction} (hphase : s.phase = .idle)
    (hpending : s.pending = tr :: rest) : step s = .next (begin tr (s.setPending rest)) := by
  rw [step_of_not_wantsPacket (by simp [wantsPacket, hphase])]
  simp [withoutPacket, hphase, hpending]

/-- Settles O40: LOAD reaches the idle block, and is done at once. -/
theorem loadMakesEverythingFresh : Obligations.LoadMakesEverythingFresh :=
  fun bytes _ _ hphase hpending => ⟨_, step_idle_cons hphase hpending, rfl, rfl, Memory.ofBytes_wf bytes,
    Memory.read_ofBytes bytes, rfl, rfl, rfl, hphase, rfl, rfl, rfl⟩

/-- Settles O41: UNLOAD reaches the idle block, and is done at once. -/
theorem unloadDropsStream : Obligations.UnloadDropsStream :=
  fun _ _ hphase hpending =>
    ⟨_, step_idle_cons hphase hpending, rfl, rfl, fun _ => rfl, rfl, rfl, rfl, hphase, rfl, rfl, rfl⟩

theorem begin_move_started {s : State} (hloaded : s.loaded = true) (hstarted : s.reader.started = true) :
    begin .move s = enterFrameLoop s := by
  simp [begin, beginMove, hloaded, hstarted]

/-- Settles O44: with the baseline done, MOVE begins with its snapshot. -/
theorem moveTakesSnapshot : Obligations.MoveTakesSnapshot := by
  intro rest s hphase hpending hloaded hstarted
  have hstep := step_idle_cons hphase hpending
  rw [begin_move_started (s := s.setPending rest) hloaded hstarted] at hstep
  exact ⟨_, hstep, rfl, rfl, rfl, rfl, rfl, rfl, rfl, rfl, rfl, rfl, rfl, rfl, rfl, rfl, rfl⟩

/-- R232: a query without a stream gives its neutral answer. -/
theorem answer_of_unloaded {s : State} (h : s.loaded = false) (r r' : Response) : answer s r r' = s.reply r' := by
  simp [answer, h]

theorem answer_of_loaded {s : State} (h : s.loaded = true) (r r' : Response) : answer s r r' = s.reply r := by
  simp [answer, h]

/-- Settles O42, transaction by transaction: each tests first whether a stream is loaded. -/
theorem unloadedAnswersNoData : Obligations.UnloadedAnswersNoData := by
  intro s ms h
  simp [transact, atomicMove, atomicSeek, answer_of_unloaded h, h]

/-- R262: the final position is that of the last change, once the end of the stream is reached. -/
theorem finalPosMs_of_eos {s : State} {k : Nat} (heos : s.reader.eos = true) (hlast : s.reader.lastChange = some k) :
    finalPosMs s = pktToMs k := by
  simp [finalPosMs, heos, hlast]

theorem finalPosMs_undefined {s : State} (h : s.reader.eos = false ∨ s.reader.lastChange = none) :
    finalPosMs s = -1 := by
  unfold finalPosMs
  split
  next k heos hlast => simp [heos, hlast] at h
  · rfl

/-- Settles O43: each query's answer, with the conversions of R20. -/
theorem queryAnswers : Obligations.QueryAnswers := by
  intro s hloaded
  have hanswer (r r' : Response) :
      (.next (answer s r r') : Host.Outcome State Fault Refusal) = .next (s.reply r) := by
    rw [answer_of_loaded hloaded]
  refine ⟨hanswer _ _, hanswer _ _, hanswer _ _, hanswer _ _, fun k heos hlast => ?_, fun h => ?_⟩
  · rw [transact, hanswer, finalPosMs_of_eos heos hlast]
    rfl
  · rw [transact, hanswer, finalPosMs_undefined h]

/-- Settles O52: the failure test of SEEK. -/
theorem seekBeyondTotalFails : Obligations.SeekBeyondTotalFails := by
  intro s ms hloaded hbeyond
  have hfails : totalMs s < ms := hbeyond
  simp [transact, atomicSeek, hloaded, hfails]

/-! ## The loops of MOVE, one step (R240 to R244) -/

theorem wantsPacket_moveLoop_iff {s : State} (hphase : s.phase = .baseline ∨ s.phase = .frameLoop) :
    wantsPacket s = true ↔ s.reader.pktIdx ≠ s.packets := by
  obtain hphase | hphase := hphase <;> simp [wantsPacket, hphase]

theorem afterPacket_baseline {s : State} (hphase : s.phase = .baseline) :
    afterPacket s = if s.changed then baselineDone s else s := by
  simp [afterPacket, hphase]

theorem afterPacket_frameLoop {s : State} (hphase : s.phase = .frameLoop) :
    afterPacket s = if stopTest s then moveStop s else s := by
  simp [afterPacket, hphase]

/-- R240, R242: one packet of a loop of MOVE, and the test after it. -/
theorem step_of_consume {s u : State} (hphase : s.phase = .baseline ∨ s.phase = .frameLoop)
    (hleft : s.reader.pktIdx ≠ s.packets) (hu : consume s = .next u) : step s = .next (afterPacket u) := by
  rw [step_of_wantsPacket ((wantsPacket_moveLoop_iff hphase).mpr hleft), hu]
  rfl

/-- R240, R244: a loop of MOVE at the end of the stream. -/
theorem step_at_end {s : State} (hphase : s.phase = .baseline ∨ s.phase = .frameLoop)
    (hend : s.reader.pktIdx = s.packets) : step s = .next (withoutPacket s) :=
  step_of_not_wantsPacket (Bool.eq_false_iff.mpr fun h => (wantsPacket_moveLoop_iff hphase).mp h hend)

theorem stopTest_iff (s : State) :
    stopTest s = true ↔ s.changed = true ∧ 5 ≤ s.reader.pktIdx - s.reader.curIdx := by
  simp [stopTest]

/-- Settles O45, by the baseline's test after a packet and at the end of the stream. -/
theorem baselineStopsAtFirstChange : Obligations.BaselineStopsAtFirstChange := by
  intro s hphase
  have hphaseOf {u : State} (hu : consume s = .next u) : u.phase = .baseline := by
    obtain ⟨-, -, _, -, -, -, -, -, -, -, hp, -⟩ := consume_facts hu
    rw [hp, hphase]
  refine ⟨fun u hleft hu hsame => ?_, fun u hleft hu hchanged => ?_, fun hend => ?_⟩
  · rw [step_of_consume (.inl hphase) hleft hu, afterPacket_baseline (hphaseOf hu), hsame]
    rfl
  · have hstep := step_of_consume (.inl hphase) hleft hu
    rw [afterPacket_baseline (hphaseOf hu), if_pos hchanged] at hstep
    exact ⟨_, hstep, rfl, rfl, rfl, rfl, rfl, rfl⟩
  · have hstep := step_at_end (.inl hphase) hend
    have hwithout : withoutPacket s = baselineEnd s := by simp [withoutPacket, hphase]
    rw [hwithout] at hstep
    exact ⟨_, hstep, rfl, rfl, rfl, rfl, rfl, rfl⟩

/-- Settles O46, by the stop test. -/
theorem frameLoopStopsAfterFive : Obligations.FrameLoopStopsAfterFive := by
  intro s u hphase hleft hu
  obtain ⟨-, -, _, -, -, -, -, -, -, -, hp, -⟩ := consume_facts hu
  have hstep := step_of_consume (.inr hphase) hleft hu
  rw [afterPacket_frameLoop (hp.trans hphase)] at hstep
  refine ⟨fun hstop => ?_, fun hgo => ?_⟩
  · rw [if_pos ((stopTest_iff u).mpr hstop)] at hstep
    refine ⟨_, hstep, rfl, rfl, rfl, rfl, fun f hf => ?_⟩
    simp [moveStop, finish, delivery, curPosMs, curDurMs, pktToMs, hf]
  · have hno : ¬ stopTest u = true := by
      rw [stopTest_iff, not_and_or, Bool.not_eq_true, Nat.not_le]
      exact hgo
    rw [hstep, if_neg hno]

/-- Settles O47, by the two results of MOVE at the end of the stream. -/
theorem frameLoopAtEndOfStream : Obligations.FrameLoopAtEndOfStream := by
  intro s f hphase hend hframe hcur hle
  have hstep : step s = .next (moveEof s) := by
    rw [step_at_end (.inr hphase) hend]
    simp [withoutPacket, hphase]
  refine ⟨fun hchanged hlt => ⟨_, hstep, rfl, hframe, rfl, ?_, ?_⟩, fun hsame => ⟨_, hstep, rfl, hframe, rfl, ?_, ?_⟩⟩
  · simp [moveEof, finish, hchanged]
  · have hne : s.reader.curIdx ≠ s.packets := by omega
    simp [moveEof, finish, delivery, curPosMs, curDurMs, pktToMs, hchanged, hframe, hend, hne]
  · simp [moveEof, finish, hsame]
  · simp [moveEof, finish, hsame, hcur]

end Sys2Proof.Machine

/-! The packet-by-packet machine and the atomic transactions (R70, R73): each loop, run step by step, gives the outcome
of its atomic form. -/

namespace Sys2Proof.Machine

/-- Some number of steps from `s` gives exactly the outcome `o`. -/
def Yields (s : State) (o : Host.Outcome State Fault Refusal) : Prop := ∃ n, runSteps n s = o

theorem runSteps_one (s : State) : runSteps 1 s = step s := by
  simp only [runSteps]
  cases step s <;> rfl

theorem runSteps_add (m n : Nat) (s : State) : runSteps (m + n) s = andThen (runSteps m s) (runSteps n) := by
  induction m generalizing s with
  | zero => simp [runSteps]
  | succ m ih =>
    rw [Nat.succ_add, runSteps, runSteps, andThen_assoc]
    congr 1
    funext t
    exact ih t

theorem yields_of_step {s : State} {o : Host.Outcome State Fault Refusal} (h : step s = o) : Yields s o :=
  ⟨1, (runSteps_one s).trans h⟩

/-- What is run after what: a next state goes on, a fault or a refusal stays. -/
theorem Yields.andThen {s : State} {o : Host.Outcome State Fault Refusal}
    {k : State → Host.Outcome State Fault Refusal} (h : Yields s o) (hk : ∀ t, o = .next t → Yields t (k t)) :
    Yields s (andThen o k) := by
  obtain ⟨m, rfl⟩ := h
  cases ho : runSteps m s with
  | next t =>
    obtain ⟨n, hn⟩ := hk t ho
    exact ⟨m + n, by rw [runSteps_add, ho]; exact hn⟩
  | fault _ => exact ⟨m, ho⟩
  | refused _ => exact ⟨m, ho⟩

theorem yields_now (s : State) : Yields s (.next s) := ⟨0, rfl⟩

/-- One packet of a loop in phase `p`, and what is run after the loop's test. -/
theorem yields_packet {s : State} {p : Phase} {k : State → Host.Outcome State Fault Refusal}
    (hwants : wantsPacket (s.setPhase p) = true)
    (hk : ∀ u, consume s = .next u → Yields (afterPacket (u.setPhase p)) (k u)) :
    Yields (s.setPhase p) (andThen (consume s) k) := by
  have hstep := step_of_wantsPacket hwants
  rw [consume_setPhase, andThen_assoc] at hstep
  cases hu : consume s with
  | next u =>
    obtain ⟨n, hn⟩ := hk u hu
    rw [hu] at hstep
    exact ⟨1 + n, by rw [runSteps_add, runSteps_one, hstep]; exact hn⟩
  | fault _ => exact yields_of_step (by rw [hstep, hu]; rfl)
  | refused _ => exact yields_of_step (by rw [hstep, hu]; rfl)

/-- One packet brings the cursor one nearer to the end of the stream. -/
theorem consume_nearer {s u : State} {n : Nat} (hu : consume s = .next u)
    (hn : s.reader.pktIdx + (n + 1) = s.packets) : u.reader.pktIdx + n = u.packets := by
  obtain ⟨-, -, _, hreader, -, -, -, hbuf, -⟩ := consume_facts hu
  simp only [State.packets, hreader, hbuf, consumed_pktIdx] at hn ⊢
  omega

/-- R242 to R244: the frame loop. -/
theorem yields_frameLoop (n : Nat) {s : State} (hn : s.reader.pktIdx + n = s.packets) :
    Yields (s.setPhase .frameLoop) (frameLoop n s) := by
  induction n generalizing s with
  | zero => exact yields_of_step (step_at_end (s := s.setPhase .frameLoop) (.inr rfl) hn)
  | succ n ih =>
    have hleft : s.reader.pktIdx ≠ s.packets := by omega
    refine yields_packet ((wantsPacket_moveLoop_iff (.inr rfl)).mpr hleft) fun u hu => ?_
    have hstopTest : stopTest (u.setPhase .frameLoop) = stopTest u := rfl
    rw [afterPacket_frameLoop rfl, hstopTest]
    cases hstop : stopTest u with
    | true => exact yields_now (moveStop u)
    | false => exact ih (consume_nearer hu hn)

/-- R240: the baseline loop, and the boundary and the snapshot after it. -/
theorem yields_baselineLoop (n : Nat) {s : State} (hsame : s.changed = false) (hn : s.reader.pktIdx + n = s.packets) :
    Yields (s.setPhase .baseline) (andThen (baselineLoop n s) fun t => .next (baselineDone t)) := by
  induction n generalizing s with
  | zero => exact yields_of_step (step_at_end (s := s.setPhase .baseline) (.inl rfl) hn)
  | succ n ih =>
    have hleft : s.reader.pktIdx ≠ s.packets := by omega
    rw [baselineLoop, setChanged_self hsame, andThen_assoc]
    refine yields_packet ((wantsPacket_moveLoop_iff (.inl rfl)).mpr hleft) fun u hu => ?_
    rw [afterPacket_baseline rfl, setPhase_changed]
    cases hchanged : u.changed with
    | true => exact yields_now (baselineDone u)
    | false => exact ih hchanged (consume_nearer hu hn)

theorem wantsPacket_seekTo_iff {s : State} {target : Nat} (hphase : s.phase = .seekTo target) :
    wantsPacket s = true ↔ s.reader.pktIdx < target := by
  simp [wantsPacket, hphase]

/-- R250, R251: the loop of SEEK, and the boundaries after it. -/
theorem yields_seekLoop (n : Nat) {s : State} {target : Nat} (hn : s.reader.pktIdx + n = target) :
    Yields (s.setPhase (.seekTo target)) (andThen (consumeMany n s) fun t => .next (seekDone target t)) := by
  induction n generalizing s with
  | zero =>
    have hdone : ¬ wantsPacket (s.setPhase (.seekTo target)) = true := by
      rw [wantsPacket_seekTo_iff rfl]
      exact Nat.not_lt.mpr (Nat.le_of_eq hn.symm)
    exact yields_of_step (step_of_not_wantsPacket (Bool.eq_false_iff.mpr hdone))
  | succ n ih =>
    rw [consumeMany, andThen_assoc]
    have hlt : s.reader.pktIdx < target := by omega
    refine yields_packet ((wantsPacket_seekTo_iff rfl).mpr hlt) fun u hu => ?_
    obtain ⟨-, -, _, hreader, -⟩ := consume_facts hu
    exact ih (by rw [hreader, consumed_pktIdx]; omega)

/-! ## Whole transactions -/

theorem frameLoop_yields_of_boundary {t : State} (hle : t.reader.pktIdx ≤ t.packets) :
    Yields (enterFrameLoop t) (frameLoop (t.packets - t.reader.pktIdx) (enterFrameLoop t)) := by
  have hn : (enterFrameLoop t).reader.pktIdx + (t.packets - t.reader.pktIdx) = (enterFrameLoop t).packets :=
    Nat.add_sub_cancel' hle
  exact yields_frameLoop _ hn

/-- R240: after the baseline the cursor is still within the stream. -/
theorem baselineLoop_cursor {n : Nat} {s t : State} (hsame : s.changed = false)
    (hn : s.reader.pktIdx + n = s.packets) (h : baselineLoop n s = .next t) : t.reader.pktIdx ≤ t.packets := by
  obtain ⟨m, u, hm, hu, ht⟩ := baselineLoop_next n hsame h
  obtain ⟨hidx, -, -, -, -, -, -, hbuf, -⟩ := consumeMany_facts m hu
  have hpackets : u.packets = s.packets := by simp only [State.packets, hbuf]
  obtain ⟨rfl, -⟩ | ⟨-, -, rfl⟩ := ht
  · omega
  · simp only [setReader_reader, setReader_packets]
    omega

/-- R240: the first MOVE enters the baseline loop. -/
theorem begin_move_first {s : State} (hsame : s.changed = false) (hloaded : s.loaded = true)
    (hstarted : s.reader.started = false) :
    begin .move s = (s.setReader { s.reader with started := true }).setPhase .baseline := by
  rw [begin, beginMove, if_neg (by simp [hloaded]), if_pos hstarted]
  exact setChanged_self (s := (s.setReader { s.reader with started := true }).setPhase .baseline) hsame

/-- R240, R241: the first MOVE, its baseline and then its frame loop. -/
theorem yields_firstMove {s : State} (hsame : s.changed = false) (hle : s.reader.pktIdx ≤ s.packets) :
    Yields (s.setPhase .baseline) (andThen
      (andThen (baselineLoop (s.packets - s.reader.pktIdx) s) fun t =>
        .next (t.setReader { t.reader with nextIdx := t.reader.pktIdx }))
      fun t => frameLoop (t.packets - t.reader.pktIdx) (enterFrameLoop t)) := by
  have hn : s.reader.pktIdx + (s.packets - s.reader.pktIdx) = s.packets := Nat.add_sub_cancel' hle
  have hmove := (yields_baselineLoop _ hsame hn).andThen (k := fun t => frameLoop (t.packets - t.reader.pktIdx) t)
    fun t ht => by
      obtain ⟨v, hv, hdone⟩ := andThen_eq_next ht
      cases hdone
      have hcursor := baselineLoop_cursor hsame hn hv
      exact frameLoop_yields_of_boundary (t := v.setReader { v.reader with nextIdx := v.reader.pktIdx }) hcursor
  rw [andThen_assoc] at hmove ⊢
  exact hmove

/-- R240 to R245: MOVE. -/
theorem yields_move {s : State} (hsame : s.changed = false) (hle : s.reader.pktIdx ≤ s.packets) :
    Yields (begin .move s) (atomicMove s) := by
  cases hloaded : s.loaded with
  | false =>
    simp only [begin, beginMove, atomicMove, hloaded, if_true, Bool.false_eq_true, if_false]
    exact yields_now _
  | true =>
    simp only [atomicMove, hloaded, if_true, moveBaseline]
    cases hstarted : s.reader.started with
    | true =>
      rw [begin_move_started hloaded hstarted]
      exact frameLoop_yields_of_boundary hle
    | false =>
      rw [begin_move_first hsame hloaded hstarted]
      exact yields_firstMove (s := s.setReader { s.reader with started := true }) hsame hle

/-- R250: where SEEK starts to read: a fresh start if the target precedes the cursor, or the state itself. -/
def seekStart (target : Nat) (s : State) : State := if target < s.reader.pktIdx then s.rewound else s

theorem seekStart_cases (target : Nat) (s : State) :
    (target < s.reader.pktIdx ∧ seekStart target s = s.rewound) ∨
    (s.reader.pktIdx ≤ target ∧ seekStart target s = s) := by
  unfold seekStart
  split
  · next h => exact .inl ⟨h, rfl⟩
  · next h => exact .inr ⟨Nat.not_lt.mp h, rfl⟩

theorem atomicSeek_within {s : State} {ms : Nat} (hloaded : s.loaded = true) (hms : ms ≤ totalMs s) :
    atomicSeek ms s = andThen
      (consumeMany (msToPkt ms - (seekStart (msToPkt ms) s).reader.pktIdx) (seekStart (msToPkt ms) s))
      fun t => .next (seekDone (msToPkt ms) t) := by
  simp [atomicSeek, hloaded, Nat.not_lt.mpr hms, seekStart]

theorem begin_seek_within {s : State} {ms : Nat} (hloaded : s.loaded = true) (hms : ms ≤ totalMs s) :
    begin (.seek ms) s = (seekStart (msToPkt ms) s).setPhase (.seekTo (msToPkt ms)) := by
  have hno : ¬ (s.loaded = false ∨ totalMs s < ms) := by simp [hloaded, hms]
  rw [begin, beginSeek, if_neg hno, seekStart]
  split <;> rfl

/-- R250, R251: SEEK. -/
theorem yields_seek (ms : Nat) (s : State) : Yields (begin (.seek ms) s) (atomicSeek ms s) := by
  by_cases hfails : s.loaded = false ∨ totalMs s < ms
  · have hatomic : atomicSeek ms s = .next (s.reply (.seek false)) := by
      obtain h | h := hfails <;> simp [atomicSeek, h]
    have hbegin : begin (.seek ms) s = s.reply (.seek false) := if_pos hfails
    rw [hatomic, hbegin]
    exact yields_now _
  · obtain ⟨hloaded, hms⟩ : s.loaded = true ∧ ms ≤ totalMs s := by simpa using hfails
    have hstart : (seekStart (msToPkt ms) s).reader.pktIdx ≤ msToPkt ms := by
      obtain ⟨-, h⟩ | ⟨hle, h⟩ := seekStart_cases (msToPkt ms) s <;> rw [h]
      · exact Nat.zero_le _
      · exact hle
    rw [atomicSeek_within hloaded hms, begin_seek_within hloaded hms]
    exact yields_seekLoop _ (Nat.add_sub_cancel' hstart)

/-- R233: each transaction, from the state that its start leaves. -/
theorem yields_transaction {s : State} (hsame : s.changed = false) (hle : s.reader.pktIdx ≤ s.packets)
    (tr : Transaction) : Yields (begin tr s) (transact tr s) := by
  cases tr with
  | move => exact yields_move hsame hle
  | seek ms => exact yields_seek ms s
  | load _ => exact yields_now _
  | unload => exact yields_now _
  | totalMs => exact yields_now _
  | curPosMs => exact yields_now _
  | curDurMs => exact yields_now _
  | finalPosMs => exact yields_now _
  | readFrame => exact yields_now _

/-- Settles O54: the first step begins the transaction, and its loops give the rest. -/
theorem stepsCarryOutTransaction : Obligations.StepsCarryOutTransaction := by
  intro s tr rest h hphase hpending
  obtain ⟨hsame, -, -⟩ := (phaseOk_idle hphase).mp h.phaseOk
  obtain ⟨-, -, hle⟩ := h.cursors
  exact (yields_of_step (step_idle_cons hphase hpending)).andThen (k := fun _ => transact tr (s.setPending rest))
    fun t ht => by cases ht; exact yields_transaction (s := s.setPending rest) hsame hle tr

end Sys2Proof.Machine

/-! MOVE and SEEK as whole transactions (R240 to R252): the state at MOVE's boundary, the end of its frame loop, and the
target of SEEK. -/

namespace Sys2Proof.Machine

/-! ## Packets consumed one after another -/

theorem StreamSound.consumeMany {n : Nat} {s t : State} (h : StreamSound s) (ht : consumeMany n s = .next t) :
    StreamSound t := by
  induction n generalizing s with
  | zero => cases ht; exact h
  | succ n ih =>
    obtain ⟨u, hu, ht⟩ := andThen_eq_next ht
    exact ih (h.consume hu) ht

theorem replayed_consumeMany {n : Nat} {s t : State} (h : Replayed s) (ht : consumeMany n s = .next t) :
    Replayed t := by
  induction n generalizing s with
  | zero => cases ht; exact h
  | succ n ih =>
    obtain ⟨u, hu, ht⟩ := andThen_eq_next ht
    exact ih (replayed_consume h hu) ht

theorem packets_congr {s t : State} (h : t.buf = s.buf) : t.packets = s.packets := congrArg Memory.packets h

/-! ## The boundary of a MOVE -/

/-- R240: `b` is `s` after the baseline of a MOVE: sound, its boundary set at the cursor unless the stream is at its
end, and nothing written outside Canvas and Reader. -/
structure Boundary (s b : State) : Prop where
  sound : StreamSound b
  started : b.reader.started = true
  cfg : b.cfg = s.cfg
  loaded : b.loaded = s.loaded
  buf : b.buf = s.buf
  replies : b.replies = s.replies
  cursor : s.reader.pktIdx ≤ b.reader.pktIdx
  next : b.reader.nextIdx = b.reader.pktIdx ∨ b.reader.pktIdx = b.packets
  replayed : Replayed s → Replayed b

theorem StreamSound.start {s : State} (h : StreamSound s) :
    StreamSound (s.setReader { s.reader with started := true }) :=
  h.setReader (reader_boundaries_sound h.reader true h.reader.curIdx_le h.reader.nextIdx_le h.reader.eos)

/-- The boundary set at the cursor of a sound state that some packets lead to. -/
theorem boundary_of_consumeMany {s u : State} {n : Nat} {e : Bool} (h : StreamSound s)
    (hu : consumeMany n (s.setReader { s.reader with started := true }) = .next u)
    (he : e = true → u.reader.pktIdx = u.packets) :
    Boundary s (u.setReader { u.reader with eos := e, nextIdx := u.reader.pktIdx }) := by
  have hsound : StreamSound u := h.start.consumeMany hu
  obtain ⟨hidx, -, -, -, hstarted, hcfg, hloaded, hbuf, -, -, -, hreplies⟩ := consumeMany_facts n hu
  have hreader := reader_boundaries_sound hsound.reader u.reader.started
    (hsound.reader.curIdx_le.trans hsound.reader.nextIdx_le) le_rfl he
  have hcursor : s.reader.pktIdx ≤ u.reader.pktIdx := Nat.le.intro hidx.symm
  have hreplayed (hs : Replayed s) : Replayed u :=
    replayed_consumeMany (replayed_of_sameReplay hs (t := s.setReader { s.reader with started := true })
      ⟨rfl, rfl, rfl, rfl, rfl, rfl⟩) hu
  exact ⟨hsound.setReader hreader, hstarted, hcfg, hloaded, hbuf, hreplies, hcursor, .inl rfl,
    fun hs => replayed_of_sameReplay (hreplayed hs) ⟨rfl, rfl, rfl, rfl, rfl, rfl⟩⟩

theorem moveBaseline_boundary {s b : State} (h : StateInv s) (hidle : s.phase = .idle) (hloaded : s.loaded = true)
    (hb : moveBaseline s = .next b) : Boundary s b := by
  obtain ⟨hsame, hnext, -⟩ := (phaseOk_idle hidle).mp h.phaseOk
  have hsound := h.streamSound hloaded
  unfold moveBaseline at hb
  split at hb
  · next hstarted =>
    cases hb
    exact ⟨hsound, hstarted, rfl, rfl, rfl, rfl, le_rfl, hnext, id⟩
  · obtain ⟨t, ht, hb⟩ := andThen_eq_next hb
    cases hb
    obtain ⟨m, u, -, hu, ⟨rfl, -⟩ | ⟨rfl, -, rfl⟩⟩ :=
      baselineLoop_next _ (s := s.setReader { s.reader with started := true }) hsame ht
    · exact boundary_of_consumeMany hsound hu (hsound.start.consumeMany hu).reader.eos
    · obtain ⟨hidx, -, -, -, -, -, -, hbuf, -⟩ := consumeMany_facts _ hu
      have hend : u.reader.pktIdx = u.packets := by
        rw [hidx, packets_congr hbuf]
        exact Nat.add_sub_cancel' hsound.reader.pktIdx_le
      exact boundary_of_consumeMany (u := u) (e := true) hsound hu fun _ => hend

/-! ## The frame loop of a MOVE -/

/-- R242: what the frame loop keeps of its start, `m` packets after the boundary. -/
structure InFrameLoop (b : State) (m : Nat) (u : State) : Prop where
  sound : StreamSound u
  started : u.reader.started = true
  buf : u.buf = b.buf
  replies : u.replies = b.replies
  pktIdx : u.reader.pktIdx = b.reader.pktIdx + m
  curIdx : u.reader.curIdx = b.reader.nextIdx
  nextIdx : u.reader.nextIdx = b.reader.nextIdx
  frame : u.frame = some (snapshot b.cfg b.canvas)
  unchanged : m = 0 → u.changed = false

theorem inFrameLoop_of_consumeMany {s b u : State} {m : Nat} (h : Boundary s b)
    (hu : consumeMany m (enterFrameLoop b) = .next u) : InFrameLoop b m u := by
  have hstart : StreamSound (enterFrameLoop b) :=
    (h.sound.stateInv_enterFrameLoop h.started).streamSound h.sound.loaded
  obtain ⟨hidx, hcur, hnext, -, hstarted, -, -, hbuf, hframe, -, -, hreplies⟩ := consumeMany_facts m hu
  refine ⟨hstart.consumeMany hu, hstarted.trans h.started, hbuf, hreplies, hidx, hcur, hnext, hframe, ?_⟩
  rintro rfl
  cases hu
  rfl

/-- R240 to R244: a MOVE without a stream answers no data; a MOVE with one ends at its stop test or at the end of the
stream, some packets after its boundary. -/
theorem move_cases {s t : State} (h : StateInv s) (hidle : s.phase = .idle) (ht : transact .move s = .next t) :
    (s.loaded = false ∧ t = s.reply (.move none)) ∨
    ∃ b m u, Boundary s b ∧ InFrameLoop b m u ∧
      ((stopTest u = true ∧ 1 ≤ m ∧ t = moveStop u) ∨ (u.reader.pktIdx = u.packets ∧ t = moveEof u)) := by
  cases hloaded : s.loaded with
  | false =>
    simp only [transact, atomicMove, hloaded, Bool.false_eq_true, if_false, Host.Outcome.next.injEq] at ht
    exact .inl ⟨rfl, ht.symm⟩
  | true =>
    simp only [transact, atomicMove, hloaded, if_true] at ht
    obtain ⟨b, hb, ht⟩ := andThen_eq_next ht
    have hboundary := moveBaseline_boundary h hidle hloaded hb
    obtain ⟨m, u, -, hu, ⟨hstop, hm, rfl⟩ | ⟨rfl, rfl, -⟩⟩ := frameLoop_next _ ht
    · exact .inr ⟨b, m, u, hboundary, inFrameLoop_of_consumeMany hboundary hu, .inl ⟨hstop, hm, rfl⟩⟩
    · have hin := inFrameLoop_of_consumeMany hboundary hu
      have hend : u.reader.pktIdx = u.packets := by
        rw [hin.pktIdx, packets_congr hin.buf]
        exact Nat.add_sub_cancel' hboundary.sound.reader.pktIdx_le
      exact .inr ⟨b, _, u, hboundary, hin, .inr ⟨hend, rfl⟩⟩

/-! ## Every MOVE ends (R247) -/

theorem consume_total {s : State} (hskip : s.cfg.tileOob = .skip) (hloaded : s.loaded = true)
    (hleft : s.reader.pktIdx < s.packets) : ∃ u, consume s = .next u :=
  ⟨_, consume_next hloaded hleft (recordRefuses_skip hskip _)⟩

theorem baselineLoop_total (n : Nat) {s : State} (hskip : s.cfg.tileOob = .skip) (hloaded : s.loaded = true)
    (hn : s.reader.pktIdx + n = s.packets) : ∃ t, baselineLoop n s = .next t ∧ t.cfg = s.cfg ∧ t.loaded = true := by
  induction n generalizing s with
  | zero => exact ⟨_, rfl, rfl, hloaded⟩
  | succ n ih =>
    obtain ⟨u, hu⟩ := consume_total (s := s.setChanged false) hskip hloaded (Nat.lt_of_lt_of_eq (by simp) hn)
    obtain ⟨-, -, _, -, -, hcfg, hloaded', -⟩ := consume_facts hu
    rw [baselineLoop, hu]
    cases hchanged : u.changed with
    | true => exact ⟨u, by simp [hchanged], hcfg, hloaded'⟩
    | false =>
      obtain ⟨t, ht, hcfg', hloaded''⟩ := ih (s := u) (by rw [hcfg]; exact hskip) hloaded' (consume_nearer hu hn)
      exact ⟨t, by simpa [hchanged] using ht, hcfg'.trans hcfg, hloaded''⟩

theorem frameLoop_total (n : Nat) {s : State} (hskip : s.cfg.tileOob = .skip) (hloaded : s.loaded = true)
    (hn : s.reader.pktIdx + n = s.packets) : ∃ t, frameLoop n s = .next t := by
  induction n generalizing s with
  | zero => exact ⟨_, rfl⟩
  | succ n ih =>
    obtain ⟨u, hu⟩ := consume_total hskip hloaded (by omega)
    obtain ⟨-, -, _, -, -, hcfg, hloaded', -⟩ := consume_facts hu
    rw [frameLoop, hu]
    cases hstop : stopTest u with
    | true => exact ⟨moveStop u, by simp [hstop]⟩
    | false =>
      obtain ⟨t, ht⟩ := ih (by rw [hcfg]; exact hskip) hloaded' (consume_nearer hu hn)
      exact ⟨t, by simpa [hstop] using ht⟩

theorem moveBaseline_total {s : State} (hskip : s.cfg.tileOob = .skip) (hloaded : s.loaded = true)
    (hle : s.reader.pktIdx ≤ s.packets) : ∃ b, moveBaseline s = .next b := by
  unfold moveBaseline
  split
  · exact ⟨s, rfl⟩
  · obtain ⟨t, ht, -⟩ := baselineLoop_total (s.packets - s.reader.pktIdx)
      (s := s.setReader { s.reader with started := true }) hskip hloaded (Nat.add_sub_cancel' hle)
    rw [ht]
    exact ⟨_, rfl⟩

/-- R247: under the default tile policy a MOVE answers a next state. -/
theorem move_total {s : State} (h : StateInv s) (hidle : s.phase = .idle) (hskip : s.cfg.tileOob = .skip) :
    ∃ t, transact .move s = .next t := by
  rw [transact, atomicMove]
  split
  · next hloaded =>
    obtain ⟨-, -, hle⟩ := h.cursors
    obtain ⟨b, hb⟩ := moveBaseline_total hskip hloaded hle
    have hboundary := moveBaseline_boundary h hidle hloaded hb
    have hskip' : (enterFrameLoop b).cfg.tileOob = .skip := by
      change b.cfg.tileOob = .skip
      rw [hboundary.cfg, hskip]
    rw [hb]
    exact frameLoop_total _ hskip' hboundary.sound.loaded (Nat.add_sub_cancel' hboundary.sound.reader.pktIdx_le)
  · exact ⟨_, rfl⟩

theorem moveStop_replies (u : State) : (moveStop u).replies = u.replies ++ [.move (delivery (moveStop u))] := rfl

theorem moveEof_replies (u : State) : (moveEof u).replies = u.replies ++
    [.move (if (moveEof u).reader.curIdx ≠ (moveEof u).reader.nextIdx then delivery (moveEof u) else none)] := rfl

/-- Settles O48: the MOVE answers, and at its end the invariant holds with one response more. -/
theorem everyMoveEnds : Obligations.EveryMoveEnds := by
  intro s h hidle hskip
  obtain ⟨t, ht⟩ := move_total h hidle hskip
  obtain ⟨-, rfl⟩ | ⟨b, m, u, hb, hu, hend⟩ := move_cases h hidle ht
  · obtain ⟨-, -, hle⟩ := h.cursors
    exact ⟨_, none, ht, hidle, rfl, le_rfl, hle, rfl, stateInv_hostSide h _ _⟩
  · have hcursor : s.reader.pktIdx ≤ u.reader.pktIdx := by
      rw [hu.pktIdx]
      exact hb.cursor.trans (Nat.le_add_right _ _)
    have hbuf : u.buf = s.buf := hu.buf.trans hb.buf
    have hle : u.reader.pktIdx ≤ s.packets := by
      rw [← packets_congr hbuf]
      exact hu.sound.reader.pktIdx_le
    have hreplies : u.replies = s.replies := hu.replies.trans hb.replies
    obtain ⟨-, -, rfl⟩ | ⟨hpkt, rfl⟩ := hend
    · exact ⟨_, _, ht, rfl, by rw [moveStop_replies, hreplies], hcursor, hle, hbuf,
        hu.sound.stateInv_moveStop hu.started⟩
    · exact ⟨_, _, ht, rfl, by rw [moveEof_replies, hreplies], hcursor, hle, hbuf,
        hu.sound.stateInv_moveEof hpkt hu.started⟩

/-! ## What a MOVE delivers (R243 to R245) -/

theorem delivery_eq_some {t : State} {d : Delivery} (h : delivery t = some d) :
    t.frame = some d.frame ∧ d.posMs = curPosMs t ∧ d.durMs = curDurMs t := by
  obtain ⟨f, hf, rfl⟩ := Option.map_eq_some_iff.mp h
  exact ⟨hf, rfl, rfl⟩

/-- R243: a MOVE that stops delivers, its boundaries at least five packets apart. -/
theorem moveStop_delivers {b u : State} {m : Nat} {d : Delivery} (hu : InFrameLoop b m u) (hstop : stopTest u = true)
    (hm : 1 ≤ m) (hreplies : (moveStop u).replies = u.replies ++ [.move (some d)]) :
    delivery (moveStop u) = some d ∧ b.reader.pktIdx ≠ b.packets ∧
      5 ≤ (moveStop u).reader.nextIdx - (moveStop u).reader.curIdx := by
  obtain ⟨-, hfive⟩ := (stopTest_iff u).mp hstop
  have hle := hu.sound.reader.pktIdx_le
  rw [hu.pktIdx, packets_congr hu.buf] at hle
  exact ⟨by simpa [moveStop_replies] using hreplies, by omega, hfive⟩

/-- R244: a MOVE that ends with the stream delivers only where a packet of its loop changed something. -/
theorem moveEof_delivers {b u : State} {m : Nat} {d : Delivery} (hu : InFrameLoop b m u)
    (hend : u.reader.pktIdx = u.packets) (hreplies : (moveEof u).replies = u.replies ++ [.move (some d)]) :
    delivery (moveEof u) = some d ∧ b.reader.pktIdx ≠ b.packets ∧
      (moveEof u).reader.curIdx < (moveEof u).reader.nextIdx ∧ (moveEof u).reader.nextIdx = u.packets := by
  have hnextIdx : (moveEof u).reader.nextIdx = if u.changed then u.reader.pktIdx else u.reader.nextIdx := rfl
  have hcurIdx : (moveEof u).reader.curIdx = u.reader.curIdx := rfl
  obtain ⟨hne, hdelivery⟩ : (moveEof u).reader.curIdx ≠ (moveEof u).reader.nextIdx ∧ delivery (moveEof u) = some d := by
    simpa [moveEof_replies] using hreplies
  have hchanged : u.changed = true := by
    by_contra hno
    rw [hcurIdx, hnextIdx, if_neg hno, hu.curIdx, hu.nextIdx] at hne
    exact hne rfl
  have hm : m ≠ 0 := fun h0 => by rw [hu.unchanged h0] at hchanged; cases hchanged
  have hle := hu.sound.reader.curIdx_le.trans hu.sound.reader.nextIdx_le
  rw [hnextIdx, if_pos hchanged] at hne ⊢
  rw [hcurIdx] at hne ⊢
  refine ⟨hdelivery, ?_, Nat.lt_of_le_of_ne hle hne, hend⟩
  rw [hu.pktIdx, packets_congr hu.buf] at hend
  omega

/-- R241 to R245: what a MOVE delivers is the snapshot of its boundary, which is at the cursor there. -/
theorem move_delivers {s t : State} {d : Delivery} (h : StateInv s) (hidle : s.phase = .idle)
    (ht : transact .move s = .next t) (hreplies : t.replies = s.replies ++ [.move (some d)]) :
    delivery t = some d ∧
    (5 ≤ t.reader.nextIdx - t.reader.curIdx ∨
      (t.reader.eos = true ∧ t.reader.curIdx < t.reader.nextIdx ∧ t.reader.nextIdx = s.packets)) ∧
    ∃ b, Boundary s b ∧ t.reader.curIdx = b.reader.pktIdx ∧ t.frame = some (snapshot s.cfg b.canvas) := by
  obtain ⟨-, rfl⟩ | ⟨b, m, u, hb, hu, hend⟩ := move_cases h hidle ht
  · simp at hreplies
  · rw [← hb.replies, ← hu.replies] at hreplies
    have hframe : u.frame = some (snapshot s.cfg b.canvas) := by rw [hu.frame, hb.cfg]
    have hcur (hleft : b.reader.pktIdx ≠ b.packets) : u.reader.curIdx = b.reader.pktIdx :=
      hu.curIdx.trans (hb.next.resolve_right hleft)
    have hpackets : u.packets = s.packets := packets_congr (hu.buf.trans hb.buf)
    obtain ⟨hstop, hm, rfl⟩ | ⟨hpkt, rfl⟩ := hend
    · obtain ⟨hd, hleft, hfive⟩ := moveStop_delivers hu hstop hm hreplies
      exact ⟨hd, .inl hfive, b, hb, hcur hleft, hframe⟩
    · obtain ⟨hd, hleft, hlt, hlast⟩ := moveEof_delivers hu hpkt hreplies
      exact ⟨hd, .inr ⟨rfl, hlt, hlast.trans hpackets⟩, b, hb, hcur hleft, hframe⟩

/-- Settles O49, by the two ends of a MOVE that delivers. -/
theorem deliveredFramesAreSpaced : Obligations.DeliveredFramesAreSpaced := by
  intro s t d h hidle ht hreplies
  obtain ⟨-, hspaced, -⟩ := move_delivers h hidle ht hreplies
  exact hspaced

/-- Settles O50: the Canvas at the boundary is the one of the replay up to it. -/
theorem deliveredFrameIsCanvasAtBoundary : Obligations.DeliveredFrameIsCanvasAtBoundary := by
  intro s t d h hs hidle ht hreplies
  obtain ⟨hd, -, b, hb, hcur, hsnapshot⟩ := move_delivers h hidle ht hreplies
  obtain ⟨hframe, hpos, hdur⟩ := delivery_eq_some hd
  obtain ⟨v, hv, hcanvas, -⟩ := hb.replayed hs
  obtain ⟨w, hw, -, -, -, hcanvas', -⟩ :=
    consumeMany_sameReplay _ (sameReplay_rewound hb.cfg.symm hb.loaded.symm hb.buf.symm) hv
  have hd : snapshot s.cfg b.canvas = d.frame := Option.some.inj (hsnapshot.symm.trans hframe)
  exact ⟨hpos, hdur, hframe, w, by rw [hcur]; exact hw, by rw [hcanvas', hcanvas, hd]⟩

/-! ## MOVE at the end of the stream (R247) -/

/-- R45: the end of the stream is reached only after a MOVE has started on a stream. -/
theorem StateInv.started_of_eos {s : State} (h : StateInv s) (hidle : s.phase = .idle) (heos : s.reader.eos = true) :
    s.loaded = true ∧ s.reader.started = true := by
  have hnotFresh : s.reader ≠ Reader.fresh := fun hfresh => by rw [hfresh] at heos; cases heos
  obtain ⟨-, -, hfresh⟩ := (phaseOk_idle hidle).mp h.phaseOk
  refine ⟨Bool.of_not_eq_false fun hloaded => ?_, Bool.of_not_eq_false fun hstarted => ?_⟩
  · obtain ⟨-, hreader, -⟩ := h.unloaded hloaded
    exact hnotFresh hreader
  · obtain ⟨hreader, -⟩ := hfresh hstarted
    exact hnotFresh hreader

/-- Settles O51: no packet is left, so the frame loop ends at once with no change. -/
theorem moveAtEndAnswersFalse : Obligations.MoveAtEndAnswersFalse := by
  intro s h hidle heos
  obtain ⟨hloaded, hstarted⟩ := h.started_of_eos hidle heos
  have hleft : s.packets - s.reader.pktIdx = 0 := by
    rw [h.eos heos]
    exact Nat.sub_self _
  have hmove : transact .move s = .next (moveEof (enterFrameLoop s)) := by
    simp only [transact, atomicMove, moveBaseline, hloaded, hstarted, if_true, andThen_next, hleft, frameLoop]
  have hreply : (moveEof (enterFrameLoop s)).replies = s.replies ++ [.move none] := by
    simp [moveEof, finish, enterFrameLoop]
  exact ⟨_, hmove, hreply, rfl, rfl, rfl, rfl, rfl⟩

/-! ## SEEK (R250 to R252) -/

/-- R252: from a replayed state on, the packets up to the target are those of a direct read of it. -/
theorem consumeMany_of_replayed {s t : State} {n : Nat} (hs : Replayed s) (ht : consumeMany n s = .next t) :
    ∃ u, consumeMany (s.reader.pktIdx + n) s.rewound = .next u ∧ t.canvas = u.canvas ∧
      t.reader.lastChange = u.reader.lastChange := by
  obtain ⟨v, hv, hcanvas, hlast⟩ := hs
  obtain ⟨u, hu, -, -, -, hc, -, hl⟩ := consumeMany_sameReplay n (sameReplay_of_replay hv hcanvas hlast) ht
  exact ⟨u, by rw [consumeMany_add, hv]; exact hu, hc.symm, hl.symm⟩

theorem seekStart_kept (target : Nat) (s : State) :
    (seekStart target s).cfg = s.cfg ∧ (seekStart target s).loaded = s.loaded ∧ (seekStart target s).buf = s.buf ∧
      (seekStart target s).frame = s.frame ∧ (seekStart target s).replies = s.replies := by
  obtain ⟨-, h⟩ | ⟨-, h⟩ := seekStart_cases target s <;> rw [h] <;> exact ⟨rfl, rfl, rfl, rfl, rfl⟩

/-- R250: both paths of SEEK start at a replayed state at or before the target, with the same fresh start. -/
theorem seekStart_facts (target : Nat) {s : State} (hs : Replayed s) :
    Replayed (seekStart target s) ∧ (seekStart target s).rewound = s.rewound ∧
      (seekStart target s).reader.pktIdx ≤ target ∧
      (seekStart target s).reader.eos = (s.reader.eos && decide (s.reader.pktIdx ≤ target)) := by
  obtain ⟨hlt, h⟩ | ⟨hle, h⟩ := seekStart_cases target s <;> rw [h]
  · exact ⟨replayed_of_fresh rfl rfl, rfl, Nat.zero_le _, by simp [hlt]⟩
  · exact ⟨hs, rfl, hle, by simp [hle]⟩

/-- Settles O53: on both paths the packets read are those of a direct read of the target. -/
theorem seekLandsOnTarget : Obligations.SeekLandsOnTarget := by
  intro s ms _ hs _ hloaded hskip hms
  obtain ⟨hreplayed, hrewound, hle, heos⟩ := seekStart_facts (msToPkt ms) hs
  obtain ⟨hcfg, hloaded', hbuf, hframe, hreplies⟩ := seekStart_kept (msToPkt ms) s
  have hsum := Nat.add_sub_cancel' hle
  have htarget : msToPkt ms ≤ (seekStart (msToPkt ms) s).packets := by
    rw [packets_congr hbuf]
    exact msToPkt_le_packets hms
  obtain ⟨t, ht⟩ := consumeMany_total _ (hcfg ▸ hskip) (hloaded'.trans hloaded) (hsum.trans_le htarget)
  obtain ⟨hidx, -, -, heosT, -, -, -, hbufT, hframeT, -, -, hrepliesT⟩ := consumeMany_facts _ ht
  obtain ⟨u, hu, hcanvas, hlast⟩ := consumeMany_of_replayed hreplayed ht
  rw [hsum, hrewound] at hu
  have hseek : transact (.seek ms) s = .next (seekDone (msToPkt ms) t) := by
    rw [transact, atomicSeek_within hloaded hms, ht]
    rfl
  exact ⟨_, u, hseek, hu, hcanvas, hlast, hidx.trans hsum, rfl, rfl, rfl, heosT.trans heos, hframeT.trans hframe,
    hbufT.trans hbuf, rfl, by simp [seekDone, finish, hrepliesT, hreplies]⟩

end Sys2Proof.Machine
